-- ==== Sys2Proof/Word.lean ====
section
/-! DEFINITION. Word types of Opeina (R8, R9) and the type of sparse maps that State uses for registers, memory and stash. -/

namespace Sys2Proof

/-- One byte. -/
abbrev Byte := BitVec 8

/-- A general register (R28). -/
abbrev Word := BitVec 32

/-- A doubleword: clause headers, instruction words, pairs (R9, R61). -/
abbrev DWord := BitVec 64

/-- A sparse map: keys strictly rising, and no entry equal to what an unlisted key reads as. -/
abbrev SMap (α : Type) := List (Nat × α)

end Sys2Proof
end

