-- ==== Sys2Proof/Config.lean ====
section
/-! DEFINITION. What an implementation fixes, and the free values: constants with no body, so that nothing can be proved of the value they take. -/

namespace Sys2Proof.Config

/-- The n-th undefined 32-bit value the machine takes: g registers outside RSTMASK after a restart (R238) and
elements of a tile that is allocated and not zeroed (R230, R232). The machine's counter `freeCtr` numbers them.
(DESIGN CHOICE, log entry 8.) -/
opaque freeWord : Nat → Word

/-- The fractional bits of the working precision of FEXP2, FLOG2, VEXP and the logarithm of R132 (DEDUCED, log entry 6). -/
def transcendentalBits : Nat := 160

end Sys2Proof.Config
end

