-- ==== Sys2Proof/Syntax.lean ====
section
/-! DEFINITION. The syntax: one constructor of Instr per row of spec/opcode_table.json. An instruction word carries its
common fields (R69) and the fields of its format (R80 to R88); a device step carries what it acts on. -/

namespace Sys2Proof

/-- The common fields of an instruction word (R69): the park marker K and GUARD (bit 3 negates, bits 2..0 name p0 to p7). -/
structure Ctl where
  park : Bool
  guard : BitVec 4
  deriving DecidableEq, Repr

/-- The RRR format (R80). -/
structure RRR where
  d : BitVec 6
  a : BitVec 6
  b : BitVec 6
  c : BitVec 6
  ty : BitVec 4
  md : BitVec 8
  imm : BitVec 16
  deriving DecidableEq, Repr

/-- The RI format (R81). -/
structure RI where
  d : BitVec 6
  a : BitVec 6
  ty : BitVec 4
  md : BitVec 4
  imm : BitVec 32
  deriving DecidableEq, Repr

/-- The MEM format (R82). -/
structure MEM where
  d : BitVec 6
  base : BitVec 6
  data : BitVec 6
  ty : BitVec 4
  order : BitVec 2
  scope : BitVec 2
  hint : BitVec 4
  offset : BitVec 16
  deriving DecidableEq, Repr

/-- The BR format (R83). -/
structure BR where
  d : BitVec 6
  offset : BitVec 32
  deriving DecidableEq, Repr

/-- The SW format of sweep words (R84). -/
structure SW where
  n : BitVec 12
  d : BitVec 6
  a : BitVec 6
  b : BitVec 6
  sd : BitVec 7
  sa : BitVec 7
  sb : BitVec 7
  sat : BitVec 1
  deriving DecidableEq, Repr

/-- The MX format of matrix words (R85). -/
structure MX where
  acc : BitVec 7
  aq : BitVec 4
  bq : BitVec 4
  k : BitVec 6
  aslot : BitVec 3
  bslot : BitVec 3
  stitch : BitVec 4
  sb : BitVec 1
  zf : BitVec 1
  meta' : BitVec 6
  deriving DecidableEq, Repr

/-- The TX format of transfer words (R86). -/
structure TX where
  shape : BitVec 6
  hd : BitVec 6
  tok : BitVec 6
  arg : BitVec 6
  kn : BitVec 6
  mode : BitVec 6
  deriving DecidableEq, Repr

/-- The PL format of ply words (R87). -/
structure PL where
  map : BitVec 3
  d : BitVec 6
  a : BitVec 6
  b : BitVec 6
  c : BitVec 6
  stitch : BitVec 4
  sb : BitVec 1
  ty : BitVec 4
  deriving DecidableEq, Repr

/-- The SY format of system words (R88). -/
structure SY where
  d : BitVec 6
  a : BitVec 6
  b : BitVec 6
  sel : BitVec 10
  md : BitVec 8
  imm : BitVec 16
  deriving DecidableEq, Repr

/-- The element types of VSPC, opcodes 0x10 to 0x14 in this order (R110). -/
inductive PruneType where
  | i8 | e4m3 | e5m2 | f16 | bf16
  deriving DecidableEq, Repr

/-- What an access of an agent outside the device does (R151, R322, R325, R330): the PCIe AtomicOps of R320, and the atomics of another pod device's threads. -/
inductive AgentOp where
  | load
  | store (v : List Byte)
  | fetchAdd (v : Nat)
  | swap (v : Nat)
  | cas (cmp new : Nat)
  | min (signed : Bool) (v : Nat)
  | max (signed : Bool) (v : Nat)
  | and (v : Nat)
  | or (v : Nat)
  | xor (v : Nat)
  | inc (v : Nat)
  | addF32 (v : Nat)
  /-- A slice of another pod device takes the line of this device's memory as its owner, and answers a recall, what it wrote having been stored (R330). -/
  | own
  | giveUp
  deriving DecidableEq, Repr

/-- A request of the host or of another pod device to this device's memory (R322, R330): physical address, size in bytes. -/
structure AgentRequest where
  pa : Nat
  size : Nat
  op : AgentOp
  port : Nat
  deriving DecidableEq, Repr

/-- What checking a firmware image's two signatures finds (R335): the signature mathematics is an input of the step. -/
structure ImageCheck where
  wellFormed : Bool
  ecdsaOk : Bool
  lmsOk : Bool
  version : Word
  deriving DecidableEq, Repr

/-- The block of pod numbers that a parent hands down to a device (R334): the first, which is the device's own, and how many. -/
structure NumberBlock where
  first : Nat
  count : Nat
  deriving DecidableEq, Repr

/-- One constructor per row of the opcode table. -/
inductive Instr where
  /-- NOP: Occupies one word of its clause with no effect; with the park marker the member waits for all its outstanding results. (R394) -/
  | nop (c : Ctl) (f : RRR)
  /-- ADD: Integer addition under the integer mould, wrapping or saturating. (R343) -/
  | add (c : Ctl) (f : RRR)
  /-- SUB: Integer subtraction under the integer mould, wrapping or saturating. (R421) -/
  | sub (c : Ctl) (f : RRR)
  /-- MUL: Integer multiply that keeps the low w bits, or clamps under .sat. (R391) -/
  | mul (c : Ctl) (f : RRR)
  /-- MULH: High w bits of the exact 2w-bit integer product. (R391) -/
  | mulh (c : Ctl) (f : RRR)
  /-- MAD: Exact A·B + C, then wrapped or clamped. (R385) -/
  | mad (c : Ctl) (f : RRR)
  /-- MIN: Lesser of two integers as ty reads them. (R386) -/
  | min (c : Ctl) (f : RRR)
  /-- MAX: Greater of two integers as ty reads them. (R386) -/
  | max (c : Ctl) (f : RRR)
  /-- ABS: Absolute value of a signed integer, wrapping or saturating. (R341) -/
  | abs (c : Ctl) (f : RRR)
  /-- NEG: Negation of a signed integer, wrapping or saturating. (R393) -/
  | neg (c : Ctl) (f : RRR)
  /-- AND: Bitwise AND over w bits. (R344) -/
  | and (c : Ctl) (f : RRR)
  /-- OR: Bitwise OR over w bits. (R396) -/
  | or (c : Ctl) (f : RRR)
  /-- XOR: Bitwise exclusive OR over w bits. (R432) -/
  | xor (c : Ctl) (f : RRR)
  /-- NOT: Bitwise complement over w bits. (R395) -/
  | not (c : Ctl) (f : RRR)
  /-- SHL: Logical left shift, giving 0 for counts of w or more. (R408) -/
  | shl (c : Ctl) (f : RRR)
  /-- SHR: Logical right shift, giving 0 for counts of w or more. (R408) -/
  | shr (c : Ctl) (f : RRR)
  /-- SAR: Arithmetic right shift that copies the sign bit. (R408) -/
  | sar (c : Ctl) (f : RRR)
  /-- BFX: Extracts a bit field, zero- or sign-extended. (R347) -/
  | bfx (c : Ctl) (f : RRR)
  /-- BFI: Inserts the low bits of B into a bit field of A. (R347) -/
  | bfi (c : Ctl) (f : RRR)
  /-- POPC: Counts the 1 bits of A. (R402) -/
  | popc (c : Ctl) (f : RRR)
  /-- CLZ: Counts the leading zero bits of A. (R354) -/
  | clz (c : Ctl) (f : RRR)
  /-- CMP: Integer comparison that writes a predicate. (R355) -/
  | cmp (c : Ctl) (f : RRR)
  /-- SEL: Selects A or B by a predicate. (R410) -/
  | sel (c : Ctl) (f : RRR)
  /-- MOV: Copies a register, pair or quad unchanged. (R389) -/
  | mov (c : Ctl) (f : RRR)
  /-- LEA: Computes a 64-bit address as base plus a shifted index, without translating it. (R384) -/
  | lea (c : Ctl) (f : RRR)
  /-- MOVI: Writes an immediate, extended by PFX for the 64-bit types. (R390) -/
  | movi (c : Ctl) (f : RI)
  /-- FADD: Floating-point addition under the float mould. (R364) -/
  | fadd (c : Ctl) (f : RRR)
  /-- FSUB: Floating-point subtraction under the float mould. (R374) -/
  | fsub (c : Ctl) (f : RRR)
  /-- FMUL: Floating-point multiplication under the float mould. (R372) -/
  | fmul (c : Ctl) (f : RRR)
  /-- FFMA: Fused multiply-add with a single rounding. (R369) -/
  | ffma (c : Ctl) (f : RRR)
  /-- FMIN: Lesser of two floats, with the NaN and signed-zero rules. (R371) -/
  | fmin (c : Ctl) (f : RRR)
  /-- FMAX: Greater of two floats, with the NaN and signed-zero rules. (R371) -/
  | fmax (c : Ctl) (f : RRR)
  /-- FCMP: Float comparison, including unordered conditions, that writes a predicate. (R366) -/
  | fcmp (c : Ctl) (f : RRR)
  /-- FCLASS: Writes a one-hot class mask of a float value. (R365) -/
  | fclass (c : Ctl) (f : RRR)
  /-- FRCP: Correctly rounded reciprocal. (R373) -/
  | frcp (c : Ctl) (f : RRR)
  /-- FRSQ: Correctly rounded reciprocal square root. (R373) -/
  | frsq (c : Ctl) (f : RRR)
  /-- FEXP2: Correctly rounded 2^x. (R368) -/
  | fexp2 (c : Ctl) (f : RRR)
  /-- FLOG2: Correctly rounded base-2 logarithm. (R370) -/
  | flog2 (c : Ctl) (f : RRR)
  /-- CVT: Converts between typed integer and float formats and may set a flag predicate. (R358) -/
  | cvt (c : Ctl) (f : RRR)
  /-- CVT_PK: Encodes a binary32 value into the format of a slot. (R359) -/
  | cvtPk (c : Ctl) (f : RRR)
  /-- CVT_UP: Decodes a value in the format of a slot to binary32. (R359) -/
  | cvtUp (c : Ctl) (f : RRR)
  /-- LD: Loads from a virtual address, routed through the skeins, L1 and L2. (R382) -/
  | ld (c : Ctl) (f : MEM)
  /-- ST: Stores to a virtual address, routed through the skeins, L1 and L2. (R418) -/
  | st (c : Ctl) (f : MEM)
  /-- LDS: Loads from the block's stash window by offset. (R383) -/
  | lds (c : Ctl) (f : MEM)
  /-- STS: Stores to the block's stash window by offset. (R420) -/
  | sts (c : Ctl) (f : MEM)
  /-- CAS: 32-bit or 64-bit compare-and-swap, performed indivisibly. (R353) -/
  | cas (c : Ctl) (f : MEM)
  /-- CAS128: 16-byte compare-and-swap, performed indivisibly. (R353) -/
  | cas128 (c : Ctl) (f : MEM)
  /-- FENCE: Orders the member's accesses at a scope. (R367) -/
  | fence (c : Ctl) (f : MEM)
  /-- FENCE_FLUSH: A fence that also performs the untracked and private cache work. (R178) -/
  | fenceFlush (c : Ctl) (f : MEM)
  /-- ATOM_ADD: Atomic integer or f32 add that returns the old value. (R346) -/
  | atomAdd (c : Ctl) (f : MEM)
  /-- ATOM_MIN: Atomic minimum that returns the old value. (R346) -/
  | atomMin (c : Ctl) (f : MEM)
  /-- ATOM_MAX: Atomic maximum that returns the old value. (R346) -/
  | atomMax (c : Ctl) (f : MEM)
  /-- ATOM_AND: Atomic AND that returns the old value. (R346) -/
  | atomAnd (c : Ctl) (f : MEM)
  /-- ATOM_OR: Atomic OR that returns the old value. (R346) -/
  | atomOr (c : Ctl) (f : MEM)
  /-- ATOM_XOR: Atomic XOR that returns the old value. (R346) -/
  | atomXor (c : Ctl) (f : MEM)
  /-- ATOM_EXCH: Atomic exchange that returns the old value. (R346) -/
  | atomExch (c : Ctl) (f : MEM)
  /-- ATOM_INC: Atomic wrapping increment bounded by v that returns the old value. (R346) -/
  | atomInc (c : Ctl) (f : MEM)
  /-- BRA: PC-relative branch taken by each member whose guard holds. (R348) -/
  | bra (c : Ctl) (f : BR)
  /-- BRX: Branch to the address held in a register pair. (R350) -/
  | brx (c : Ctl) (f : BR)
  /-- CALL: Pushes the next clause address and branches. (R351) -/
  | call (c : Ctl) (f : BR)
  /-- RET: Pops a return address and continues there, or exits when the stack is empty. (R406) -/
  | ret (c : Ctl) (f : BR)
  /-- EXIT: Ends the thread, frees its slot and removes it from mask-form stitch sets. (R362) -/
  | exit (c : Ctl) (f : BR)
  /-- YIELD: Sets the member's yield mark. (R433) -/
  | yield (c : Ctl) (f : RRR)
  /-- TRAP: Takes the non-replayable trap fault with a code. (R422) -/
  | trap (c : Ctl) (f : RI)
  /-- BRK: Takes the non-replayable break fault with a code. (R349) -/
  | brk (c : Ctl) (f : RI)
  /-- STEP: Sets sr.step, which may hold the thread during a cut. (R419) -/
  | step (c : Ctl) (f : RI)
  /-- SIGN: Count-form signature on a stitch register; may park, complete the phase or time out. (R413) -/
  | sign (c : Ctl) (f : RRR)
  /-- SIGN_MASK: Mask-form signature on a stitch register. (R413) -/
  | signMask (c : Ctl) (f : RRR)
  /-- WAITM: Parks on a memory watch until the location differs from the comparand. (R431) -/
  | waitm (c : Ctl) (f : MEM)
  /-- PFX: Supplies a 32-bit immediate extension to the next word. (R397) -/
  | pfx (c : Ctl) (f : RI)
  /-- VADD: Sweep element-wise f32 addition. (R425) -/
  | vadd (c : Ctl) (f : SW)
  /-- VMUL: Sweep element-wise f32 multiplication. (R425) -/
  | vmul (c : Ctl) (f : SW)
  /-- VFMA: Sweep element-wise fused multiply-add into d. (R425) -/
  | vfma (c : Ctl) (f : SW)
  /-- VMAX: Sweep element-wise maximum. (R425) -/
  | vmax (c : Ctl) (f : SW)
  /-- VEXP: Sweep element-wise e^x. (R425) -/
  | vexp (c : Ctl) (f : SW)
  /-- VCOPY: Sweep copy of segments, iteration by iteration. (R425) -/
  | vcopy (c : Ctl) (f : SW)
  /-- VSUM: Sweep reduction to one total in fixed order. (R427) -/
  | vsum (c : Ctl) (f : SW)
  /-- VRMS: Sweep RMS normalisation in two passes. (R427) -/
  | vrms (c : Ctl) (f : SW)
  /-- VSMB: Sweep size-corrected softmax in two passes. (R427) -/
  | vsmb (c : Ctl) (f : SW)
  /-- VSPC: Prunes groups of eight elements to 4:8 values and metadata. (R428) -/
  | vspc (c : Ctl) (t : PruneType) (f : SW)
  /-- VCVT_PK: Packs f32 segments into a stream in a slot's format. (R426) -/
  | vcvtPk (c : Ctl) (slot : BitVec 3) (f : SW)
  /-- VCVT_UP: Unpacks a stream in a slot's format to f32 segments. (R426) -/
  | vcvtUp (c : Ctl) (slot : BitVec 3) (f : SW)
  /-- MMA: Issues or posts a dense matrix multiply-accumulate into a tile. (R229) -/
  | mma (c : Ctl) (f : MX)
  /-- MMAS: Issues or posts a 4:8 sparse matrix multiply-accumulate. (R229) -/
  | mmas (c : Ctl) (f : MX)
  /-- ACCALLOC: Requests accumulator tile names, with a variable-latency grant. (R234) -/
  | accalloc (c : Ctl) (f : RRR)
  /-- ACCFREE: Queues the unbinding of a tile name. (R233) -/
  | accfree (c : Ctl) (f : RRR)
  /-- ACCZERO: Queues the zeroing of a tile. (R233) -/
  | acczero (c : Ctl) (f : RRR)
  /-- ACCRD: Queues the encoding of a tile into the stash through a format slot. (R236) -/
  | accrd (c : Ctl) (slot : BitVec 3) (f : RRR)
  /-- RSTL: Sets the restart label and mask and checkpoints the masked registers. (R237) -/
  | rstl (c : Ctl) (f : RRR)
  /-- COPY: Enters a tensor copy into the transfer queue. (R357) -/
  | copy (c : Ctl) (f : TX)
  /-- COMET: Enters a comet read into the transfer queue and makes its token pending. (R356) -/
  | comet (c : Ctl) (f : TX)
  /-- SEAL: Closes the member's unsealed copies into its next batch. (R409) -/
  | seal (c : Ctl) (f : TX)
  /-- WAITB: Parks until at most N of the member's batches are unfinished. (R429) -/
  | waitb (c : Ctl) (f : TX)
  /-- PREF: Prefetch hint for one line view. (R403) -/
  | pref (c : Ctl) (f : MEM)
  /-- PREF_LIST: Prefetches the rows that an index list names. (R404) -/
  | prefList (c : Ctl) (f : TX)
  /-- PLYMATCH: Matches tokens and writes a ply map. (R270) -/
  | plymatch (c : Ctl) (f : PL)
  /-- PLYMERGE: Merges rows and sizes by a ply map. (R272) -/
  | plymerge (c : Ctl) (f : PL)
  /-- PLYSPLIT: Restores the original rows from merged rows by a ply map. (R273) -/
  | plysplit (c : Ctl) (f : PL)
  /-- PLYKEEP: Marks a ply map as kept. (R398) -/
  | plykeep (c : Ctl) (f : PL)
  /-- PLYFREE: Frees a ply map name. (R398) -/
  | plyfree (c : Ctl) (f : PL)
  /-- MVS: Copies a special register into a register. (R392) -/
  | mvs (c : Ctl) (f : SY)
  /-- EVSET: Sets an event of the context as a system-scope release. (R360) -/
  | evset (c : Ctl) (f : SY)
  /-- EVCLR: Clears an event of the context. (R360) -/
  | evclr (c : Ctl) (f : SY)
  /-- EVWAIT: Parks until an event is set. (R361) -/
  | evwait (c : Ctl) (f : SY)
  /-- LAUNCH: Appends a node to the device chain and writes a status. (R292) -/
  | launch (c : Ctl) (f : SY)
  /-- KNINIT: Initialises a knot's counts. (R377) -/
  | kninit (c : Ctl) (f : SY)
  /-- KNARR: Arrives on a knot, or posts the arrival to a stitch register. (R378) -/
  | knarr (c : Ctl) (f : SY)
  /-- KNWAIT: Parks until the knot's generation changes. (R379) -/
  | knwait (c : Ctl) (f : SY)
  /-- SKMAP: Loads a skein entry from a descriptor. (R415) -/
  | skmap (c : Ctl) (f : SY)
  /-- SKUNMAP: Writes back and unmaps a skein entry. (R416) -/
  | skunmap (c : Ctl) (f : SY)
  /-- SKFLUSH: Writes back the Dirty segments of one skein entry. (R416) -/
  | skflush (c : Ctl) (f : SY)
  /-- SKFLUSH_ALL: Writes back every skein entry attached to the block. (R416) -/
  | skflushAll (c : Ctl) (f : SY)
  /-- SKQUERY: Returns a snapshot of a skein entry's state. (R417) -/
  | skquery (c : Ctl) (f : SY)
  /-- DEVICE_RESET: Device reset, which clears the accepted features and the lock and starts the counters. (R4) -/
  | deviceReset
  /-- DEV_FEAT_ACC_WRITE: Write of the accepted-feature bits, discarding unsupported ones and ignored once locked. (R4) -/
  | devFeatAccWrite (v : DWord)
  /-- FEAT_LOCK: Setting LOCK freezes the accepted features and services the held host writes in arrival order. (R5) -/
  | featLock (v : DWord)
  /-- CTX_CREATE: Creates a context from its descriptor and reports the outcome in CTX_RES. (R280) -/
  | ctxCreate (v : DWord)
  /-- CTX_DESTROY: Halts the context, discards its chains and ends its blocks and entries. (R283) -/
  | ctxDestroy (v : DWord)
  /-- CTX_DESTROY_COMPLETE: The ASID is freed once teardown is done and every engine has stopped. (R283) -/
  | ctxDestroyComplete (asid : Nat)
  /-- CTX_RES_READ: Read-clear of the context creation result. (R281) -/
  | ctxResRead
  /-- GRAPH_DB: Queues a new main-chain head, or discards it and sets DBOVF. (R283) -/
  | graphDb (v : DWord)
  /-- EV_HOST_SET: The host sets an event of a context as a system-scope release. (R288) -/
  | evHostSet (v : DWord)
  /-- EV_HOST_CLEAR: The host clears an event of a context. (R288) -/
  | evHostClear (v : DWord)
  /-- CTX_DROPPED_READ: Read-clear of the dropped-hint counter. (R193) -/
  | ctxDroppedRead
  /-- CTX_STATE_READ: Read of the context state that clears DBOVF. (R281) -/
  | ctxStateRead
  /-- REGISTER_WRITE: Plain write of a management register that has no behaviour of its own. (R10) -/
  | registerWrite (off : Nat) (v : DWord)
  /-- DIR_CTL_WRITE: Sets ALIASF and REFMAX, clamping REFMAX to 8 to 1,024. (R186) -/
  | dirCtlWrite (die : Nat) (v : DWord)
  /-- HEAT_CTL_WRITE: Sets heat counting and KEXP, and restarts each slice's miss sequence. (R187) -/
  | heatCtlWrite (die : Nat) (v : DWord)
  /-- HCLR: Starts clearing the die's heat table. (R188) -/
  | hclr (die : Nat)
  /-- HEAT_CLEAR_DONE: The heat-table clear finishes and HCLR reads 0. (R188) -/
  | heatClearDone (die : Nat)
  /-- HEAT_READ: Read-clear of a heat counter. (R188) -/
  | heatRead (die i : Nat)
  /-- ALIAS_INFO_READ: Read-clear of the alias record. (R186) -/
  | aliasInfoRead (die : Nat)
  /-- FQ_HEAD_WRITE: Software advances the fault-queue head and frees slots for waiting entries. (R300) -/
  | fqHeadWrite (v : DWord)
  /-- FQ_REPLAY: Replays the suspended operation that carries a tag. (R302) -/
  | fqReplay (v : DWord)
  /-- FQ_REPLAY_ALL: Replays every suspended operation of the context. (R302) -/
  | fqReplayAll (v : DWord)
  /-- FQ_REPLAY_FAIL: The named operations take a protection fault instead of replaying. (R302) -/
  | fqReplayFail (v : DWord)
  /-- CTX_SUSPEND: Pre-empts every block of the context and stops the walker. (R308) -/
  | ctxSuspend
  /-- CTX_RESUME: Resumes a suspended context. (R308) -/
  | ctxResume
  /-- CTX_WB: Starts writing back the images of the context's non-resident blocks. (R308) -/
  | ctxWb
  /-- CTX_WB_DONE: The image write-back finishes and WB reads 0. (R308) -/
  | ctxWbDone (asid : Nat)
  /-- WP_LOST_READ: Read-clear of the lost-watchpoint counter. (R318) -/
  | wpLostRead
  /-- CUT_REQ: Starts a consistent cut of the selected context. (R309) -/
  | cutReq (v : DWord)
  /-- CUT_REL: Releases every held thread and idles the cut. (R311) -/
  | cutRel (v : DWord)
  /-- CUT_REDUCE: With every participant held or exited, sets the target M and releases the laggards. (R310) -/
  | cutReduce (asid : Nat) (podMax : Option Nat)
  /-- CUT_COMPLETE: All participants are held at M and the engines are drained. (R310) -/
  | cutComplete (asid : Nat)
  /-- CUT_ABORT: The cut limit expires and the cut aborts. (R311) -/
  | cutAbort (asid : Nat)
  /-- LMEM_BOUND_WRITE: Sets the memory-latency bound, clamped to at least 1,000. (R301) -/
  | lmemBoundWrite (v : DWord)
  /-- SHOOTDOWN_RANGE: Queues a shootdown of NPG pages, or discards it when the queue is full. (R315) -/
  | shootdownRange (v : DWord)
  /-- SHOOTDOWN_ALL: Queues a shootdown of a whole address space. (R315) -/
  | shootdownAll (v : DWord)
  /-- SHOOTDOWN_PERFORM: Performs a queued shootdown in order and increments DONE. (R315) -/
  | shootdownPerform
  /-- SD_STAT_OVF_CLEAR: Write-one-clear of the shootdown overflow bit. (R301) -/
  | sdStatOvfClear
  /-- WP_CTL_WRITE: Enables or configures a watchpoint, clamping SZ to 9. (R316) -/
  | wpCtlWrite (n : Nat) (v : DWord)
  /-- KEY_LOAD: Installs KEY_DATA as a key index and zeroes KEY_DATA. (R333) -/
  | keyLoad (v : DWord)
  /-- KEY_ERASE: Erases a key index. (R333) -/
  | keyErase (v : DWord)
  /-- KEY_CMD_COMPLETE: A key command finishes and BUSY falls. (R333) -/
  | keyCmdComplete
  /-- STRAND_WB: Writes stranded lines back while the timer runs and the port is up. (R328) -/
  | strandWb (v : DWord)
  /-- STRAND_DISC: Discards the selected stranded lines. (R328) -/
  | strandDisc (v : DWord)
  /-- STRAND_CMD_COMPLETE: A strand write-back or discard finishes and BUSY falls. (R328) -/
  | strandCmdComplete
  /-- STRAND_TIMER_EXPIRE: The one-second timer expires, after which only DISC is accepted. (R328) -/
  | strandTimerExpire
  /-- FW_UPDATE_GO: Starts a live update by verifying the staged image. (R336) -/
  | fwUpdateGo (v : DWord) (img : ImageCheck)
  /-- FW_DIE_UPDATE: After its blocks are pre-empted, a die switches to the new image and resumes placement. (R336) -/
  | fwDieUpdate
  /-- FW_UPDATE_COMPLETE: The root writes the new image to flash and BUSY falls. (R336) -/
  | fwUpdateComplete
  /-- BOOT_ROOT_START: The strapped root loads its image from flash and takes pod number 0. (R334) -/
  | bootRootStart
  /-- BOOT_OFFER_RECEIVED: A device takes an image offer, chooses its parent link and fetches the image. (R334) -/
  | bootOfferReceived (links : List Nat)
  /-- BOOT_IMAGE_VERIFIED: The image's two signatures are checked: the device then accepts and offers onward, or retries and then enters recovery. (R335) -/
  | bootImageVerified (img : ImageCheck) (number : NumberBlock)
  /-- HOST_LINK_LOST: A host port's link fails, stranding its dirty lines and starting the timer. (R327) -/
  | hostLinkLost (port : Nat)
  /-- COLROK_LINK_LOST: A Colrok link fails and the lines behind it are stranded. (R331) -/
  | colrokLinkLost (link : Nat)
  /-- UCIE_LINK_FATAL: A die-ring link cannot recover and every context halts with poison. (R321) -/
  | ucieLinkFatal
  /-- CORE_POWER_GATE: Before gating, a core writes back and deregisters its stash and L1 state. (R326) -/
  | corePowerGate (core : Nat)
  /-- CORE_CLOCK_CHANGE: Power management changes the core clock of all compute dies. (R24) -/
  | coreClockChange (mhz : Nat)
  /-- COURSE_FORM: An issue slot selects a clause address and forms a course of eligible threads. (R57) -/
  | courseForm (core islot : Nat)
  /-- CLAUSE_ENTER: Once its waits and scoreboard pass, a member enters a clause, which is decoded in full. (R67) -/
  | clauseEnter (core islot : Nat)
  /-- CLAUSE_FETCH: The clause header and words are fetched into the instruction buffer and the read-set is recorded. (R105) -/
  | clauseFetch (core blk slot : Nat)
  /-- THREAD_OVERDUE: A thread's age reaches FAIRWIN and it becomes overdue. (R58) -/
  | threadOverdue (core blk slot : Nat)
  /-- PENDING_WRITE_ARRIVE: A variable-latency result arrives, or is discarded, and the park marker may release. (R77) -/
  | pendingWriteArrive (core blk slot id : Nat)
  /-- SIGN_TIMEOUT: A signer's timeout reaches 0, which withdraws its signature and writes status 1. (R54) -/
  | signTimeout (core blk slot : Nat)
  /-- WAITM_WAKE: A write performed at the place of writes wakes the watcher to re-read. (R431) -/
  | waitmWake (core blk slot : Nat)
  /-- WAITM_POLL: Without a free watch entry, the watcher re-reads every 1,024 fabric cycles. (R431) -/
  | waitmPoll (core blk slot : Nat)
  /-- QUEUE_WORD_ACCEPT: A held matrix, ply, sweep or transfer word is accepted as an entry frees. (R227) -/
  | queueWordAccept (core blk slot : Nat)
  /-- MATRIX_OP_START: A queued matrix operation starts executing and its checks are made. (R226) -/
  | matrixOpStart (core : Nat)
  /-- MATRIX_KBLOCK_COMPLETE: One k-block is read, checked and added to the tile. (R229) -/
  | matrixKblockComplete (core : Nat)
  /-- ACC_GRANT: A waiting tile request is granted, revoking younger blocks' tiles if needed. (R235) -/
  | accGrant (core : Nat)
  /-- PLY_OP_START: A queued ply operation reaches execution, is checked, and touches its operands. (R266) -/
  | plyOpStart (core : Nat)
  /-- PLY_OP_COMPLETE: A ply operation finishes and writes its map or outputs. (R270) -/
  | plyOpComplete (core : Nat)
  /-- PLY_MAP_OBTAIN: A waiting operation obtains a physical ply map. (R277) -/
  | plyMapObtain (core blk : Nat)
  /-- SWEEP_OP_START: A queued sweep operation starts and checks its window. (R162) -/
  | sweepOpStart (core : Nat)
  /-- SWEEP_ITERATION: One sweep iteration reads its sources and writes its destination. (R161) -/
  | sweepIteration (core : Nat)
  /-- SEGMENT_FILL_COMPLETE: A stash segment's words have all arrived and been registered, so the segment is Clean. (R147) -/
  | segmentFillComplete (core entry seg : Nat)
  /-- COPY_ACCEPT: The copy engine accepts a copy, reads and checks its record and charges its knot. (R245) -/
  | copyAccept (core : Nat)
  /-- COPY_CHUNK_COMPLETE: A chunk of a copy is performed and decrements its knot count. (R247) -/
  | copyChunkComplete (core copy chunk : Nat)
  /-- COMET_ACCEPT: The comet path accepts a read and checks its record. (R245) -/
  | cometAccept (core : Nat)
  /-- COMET_BURST_REQUEST: A burst is requested once a landing-buffer entry and a request are reserved. (R255) -/
  | cometBurstRequest (core comet : Nat)
  /-- COMET_BURST_LAND: A burst lands and starts a comet thread if a reserve slot is free. (R256) -/
  | cometBurstLand (core comet burst : Nat)
  /-- COMET_THREAD_START: A waiting landed burst takes a freed reserve slot and starts its handler. (R256) -/
  | cometThreadStart (core blk : Nat)
  /-- BLOCK_END: Once the block's copies and its matrix and ply operations drain, its tiles, maps, window and image slot are released. (R363) -/
  | blockEnd (core blk : Nat)
  /-- BLOCK_PLACE: A pending block is placed on a core and its launch data is applied. (R294) -/
  | blockPlace (core : Nat)
  /-- BLOCK_PREEMPT: A block is pre-empted within its skid bounds. (R308) -/
  | blockPreempt (core blk : Nat)
  /-- BLOCK_RESUME: A pre-empted block returns to its core. (R308) -/
  | blockResume (core blk : Nat)
  /-- SKID_BOUND_EXPIRE: At the LMEM bound, chunks are abandoned and bursts dropped. (R307) -/
  | skidBoundExpire (core blk : Nat)
  /-- NODE_READ: The walker reads the current node of a chain. (R284) -/
  | nodeRead (asid : Nat) (dev : Bool)
  /-- NODE_KERNEL_START: A ready KERNEL node checks its launch record and begins a launch. (R291) -/
  | nodeKernelStart (asid : Nat) (dev : Bool)
  /-- NODE_COND: A COND node selects its successor from a condition word. (R285) -/
  | nodeCond (asid : Nat)
  /-- NODE_WHILE: A WHILE node decrements its count and enters the body, or moves on. (R285) -/
  | nodeWhile (asid : Nat)
  /-- NODE_EVENT: An EVENT node starts and completes at once. (R285) -/
  | nodeEvent (asid : Nat) (dev : Bool)
  /-- NODE_HOST: A HOST node sends an MSI-X message. (R288) -/
  | nodeHost (asid : Nat) (dev : Bool)
  /-- NODE_END: An END node ends the main chain and the next queued head is taken. (R286) -/
  | nodeEnd (asid : Nat)
  /-- GRID_FINISH: The grid finishes: its KERNEL node completes and sets its events. (R291) -/
  | gridFinish (asid launch : Nat)
  /-- EVENT_MIRROR_WRITE: The status-area mirror of the event vector is updated. (R282) -/
  | eventMirrorWrite (asid : Nat)
  /-- HOME_REQUEST: A home slice serves, forwards or recalls for a request to a line. (R151) -/
  | homeRequest (core id : Nat)
  /-- REQUEST_RETRY: A refused requester retries after its backoff, possibly marked starving. (R181) -/
  | requestRetry (core id : Nat)
  /-- FORCED_PUBLISH: The writer's core performs a widened release before the read is answered. (R211) -/
  | forcedPublish (core id : Nat)
  /-- WIDE_RELEASE_COMPLETE: A die-scope or wider release completes when the slices' counts match. (R214) -/
  | wideReleaseComplete (core id : Nat)
  /-- HOST_MEM_REQUEST: A host CXL.mem request to device memory is served at the home. (R322) -/
  | hostMemRequest (r : AgentRequest)
  /-- HOST_SNOOP_RESPONSE: The host answers a back-invalidate snoop and the line is granted. (R322) -/
  | hostSnoopResponse (block : Nat)
  /-- POD_REQUEST: A request from another pod device arrives over Colrok. (R330) -/
  | podRequest (device : Nat) (r : AgentRequest)
  /-- ATOMICOP_COMPLETION: A PCIe AtomicOp completes, possibly refused, and any emulation loop continues. (R325) -/
  | atomicopCompletion (core id : Nat) (refused : Bool)
  /-- TRANSLATION_WALK: The die walker walks the page tables for a translation miss. (R313) -/
  | translationWalk (core id : Nat)
  /-- FAULT_ENTRY_WRITE: A fault entry is written to the queue once a slot and a tag are free. (R300) -/
  | faultEntryWrite (asid : Nat)
  /-- CONTEXT_HALT: A non-replayable fault raises the halt line and the engines skid. (R303) -/
  | contextHalt (asid : Nat)
  /-- HALT_COMPLETE: Records and images are performed, CTX_STATE becomes 3 and the halt interrupt is raised. (R303) -/
  | haltComplete (asid : Nat)
  /-- SEGMENT_WRITE_BACK_DONE: A Retiring or flushed segment's write-back data reaches the home slices, the segment leaves Retiring, and the requests held at it are performed against the written-back data. (R152) -/
  | segmentWriteBackDone (core entry seg : Nat)
  /-- HOST_PORT_LINK_UP: A host port's link finishes training and HP_STAT shows it up. (R328) -/
  | hostPortLinkUp (port : Nat)
  /-- COLROK_LINK_UP: A Colrok link finishes training and CR_STAT shows it up. (R334) -/
  | colrokLinkUp (link peer : Nat)  deriving DecidableEq, Repr

end Sys2Proof
end

