-- ==== Sys2Proof/WellFormed.lean ====
section
/-! DEFINITION. Which instruction words are well formed: the type codes, modifier values and register fields that the
opcode map allows (R72, R73, R104 to R115, R423). A word that breaks one takes the illegal-instruction fault. -/

namespace Sys2Proof

/-- A pair's register number (R73). -/
def even (r : BitVec 6) : Bool := r.toNat % 2 == 0

/-- A quad's register number (R73). -/
def quadOk (r : BitVec 6) : Bool := r.toNat % 4 == 0

/-- An octet's register number (R106). -/
def octOk (r : BitVec 6) : Bool := r.toNat % 8 == 0

/-- Type set I of R106. -/
def tyI (t : BitVec 4) : Bool := t == 2 || t == 3 || t == 6 || t == 7

/-- Type set F of R106. -/
def tyF (t : BitVec 4) : Bool := t == 8 || t == 10

/-- A 64-bit type (R82). -/
def tyWide (t : BitVec 4) : Bool := t == 3 || t == 7

/-- A value register of type `t`: a register, a pair or a quad (R106). -/
def valReg (t : BitVec 4) (r : BitVec 6) : Bool :=
  if tyWide t then even r else if t == 11 then quadOk r else true

/-- Every field below bit 52 zero (NOP, YIELD). -/
def RRR.allZero (f : RRR) : Bool :=
  f.d == 0 && f.a == 0 && f.b == 0 && f.c == 0 && f.ty == 0 && f.md == 0 && f.imm == 0

/-- The second source or the immediate (R80): md[7] = 1 wants b zero, md[7] = 0 leaves imm16 unused and so zero (R73). -/
def immOk (f : RRR) : Bool :=
  if f.md.getLsbD 7 then f.b == 0 else valReg f.ty f.b && f.imm == 0

/-- Integer words with two sources, immediate allowed (R107, R337); `sat`: md[0] is .sat. -/
def intImm (f : RRR) (sat : Bool) : Bool :=
  tyI f.ty && valReg f.ty f.d && valReg f.ty f.a && immOk f && f.c == 0 &&
    (if sat then f.md &&& 0x7E == 0 else f.md &&& 0x7F == 0)

/-- MAD (R385). -/
def intMad (f : RRR) : Bool :=
  tyI f.ty && valReg f.ty f.d && valReg f.ty f.a && immOk f && valReg f.ty f.c && f.md &&& 0x7E == 0

/-- ABS and NEG (R341, R393). -/
def intSigned1 (f : RRR) : Bool :=
  (f.ty == 6 || f.ty == 7) && valReg f.ty f.d && valReg f.ty f.a && f.b == 0 && f.c == 0 && f.imm == 0 && f.md &&& 0xFE == 0

/-- NOT, POPC and CLZ (R395, R402, R354). -/
def int1 (f : RRR) : Bool :=
  tyI f.ty && valReg f.ty f.d && valReg f.ty f.a && f.b == 0 && f.c == 0 && f.imm == 0 && f.md == 0

/-- BFX (R347). -/
def intBfx (f : RRR) : Bool :=
  tyI f.ty && valReg f.ty f.d && valReg f.ty f.a && valReg f.ty f.b && f.c == 0 && f.imm == 0 && f.md &&& 0xFE == 0

/-- BFI (R347). -/
def intBfi (f : RRR) : Bool :=
  tyI f.ty && valReg f.ty f.d && valReg f.ty f.a && valReg f.ty f.b && valReg f.ty f.c && f.imm == 0 && f.md == 0

/-- CMP (R108, R355). -/
def intCmp (f : RRR) : Bool :=
  tyI f.ty && f.d.toNat ≤ 7 && valReg f.ty f.a && immOk f && f.c == 0 && f.md &&& 0x78 == 0 && (f.md &&& 7).toNat ≤ 5

/-- SEL (R410). -/
def intSel (f : RRR) : Bool :=
  tyI f.ty && valReg f.ty f.d && valReg f.ty f.a && immOk f && f.c.toNat ≤ 7 && f.md &&& 0x7F == 0

/-- MOV (R389). -/
def movWf (f : RRR) : Bool :=
  (tyI f.ty || f.ty == 11) && valReg f.ty f.d && valReg f.ty f.a && f.b == 0 && f.c == 0 && f.md == 0 && f.imm == 0

/-- LEA (R384). -/
def leaWf (f : RRR) : Bool :=
  f.ty == 3 && even f.d && even f.a && immOk f && f.c == 0 && f.md &&& 0x78 == 0 && (f.md &&& 7).toNat ≤ 4

/-- MOVI (R390). -/
def moviWf (f : RI) : Bool :=
  (tyI f.ty || f.ty == 8 || f.ty == 9 || f.ty == 10) && valReg f.ty f.d && f.a == 0 && f.md == 0 &&
    (!(f.ty == 8 || f.ty == 9) || f.imm.toNat < 65536)

/-- Float words with two sources (R338). -/
def float2 (f : RRR) : Bool := tyF f.ty && f.md &&& 0xF8 == 0 && f.c == 0 && f.imm == 0

/-- FFMA (R369). -/
def float3 (f : RRR) : Bool := tyF f.ty && f.md &&& 0xF8 == 0 && f.imm == 0

/-- Float words with one source (R338). -/
def float1 (f : RRR) : Bool := tyF f.ty && f.md &&& 0xF8 == 0 && f.b == 0 && f.c == 0 && f.imm == 0

/-- FMIN and FMAX (R371). -/
def floatSel (f : RRR) : Bool := tyF f.ty && f.md == 0 && f.c == 0 && f.imm == 0

/-- FCMP (R366). -/
def floatCmp (f : RRR) : Bool := tyF f.ty && f.d.toNat ≤ 7 && f.md &&& 0xF8 == 0 && f.c == 0 && f.imm == 0

/-- FCLASS (R365). -/
def floatClass (f : RRR) : Bool := tyF f.ty && f.md == 0 && f.b == 0 && f.c == 0 && f.imm == 0

/-- The source type of a CVT, md[6:3] (R108). -/
def cvtSource (f : RRR) : BitVec 4 := f.md.extractLsb' 3 4

/-- CVT (R358). -/
def cvtWf (f : RRR) : Bool :=
  f.ty.toNat ≤ 10 && (cvtSource f).toNat ≤ 10 && f.md &&& 0x80 == 0 && f.b.toNat ≤ 7 && f.c == 0 && f.imm == 0 &&
    valReg f.ty f.d && valReg (cvtSource f) f.a

/-- CVT through a slot (R359); `dir` is md[3]. -/
def cvtSlot (f : RRR) (dir : Nat) : Bool :=
  f.ty == 0 && f.md.toNat / 8 == dir && f.b == 0 && f.c == 0 && f.imm == 0

/-- LD and LDS (R109, R381, R383); `va`: base names a pair. -/
def loadWf (f : MEM) (va : Bool) : Bool :=
  f.ty.toNat ≤ 11 && f.order.toNat ≤ 1 && f.hint.toNat ≤ 3 && f.data == 0 && valReg f.ty f.d && (!va || even f.base)

/-- ST and STS (R109, R418, R420). -/
def storeWf (f : MEM) (va : Bool) : Bool :=
  f.ty.toNat ≤ 11 && (f.order == 0 || f.order == 2) && f.hint.toNat ≤ 3 && f.d == 0 && valReg f.ty f.data && (!va || even f.base)

/-- CAS (R109, R352). -/
def casWf (f : MEM) : Bool :=
  tyI f.ty && f.hint.toNat ≤ 3 && even f.base && valReg f.ty f.d && (if tyWide f.ty then quadOk f.data else even f.data)

/-- CAS128 (R109, R352). -/
def cas128Wf (f : MEM) : Bool :=
  f.ty == 11 && f.hint.toNat ≤ 3 && even f.base && quadOk f.d && octOk f.data

/-- FENCE and FENCE .flush (R109, R367). -/
def fenceWf (f : MEM) : Bool :=
  f.ty == 0 && f.order != 0 && f.d == 0 && f.base == 0 && f.data == 0 && f.hint == 0 && f.offset == 0

/-- ATOM (R109, R345). -/
def atomWf (f : MEM) (tyOk : Bool) : Bool :=
  tyOk && f.hint.toNat ≤ 3 && even f.base && valReg f.ty f.d && valReg f.ty f.data

/-- WAITM (R109, R430). -/
def waitmWf (f : MEM) : Bool :=
  (f.ty == 2 || f.ty == 3) && f.order.toNat ≤ 1 && f.hint.toNat ≤ 3 && even f.base && f.d == 0 && valReg f.ty f.data

/-- SIGN, count form (R411). -/
def signWf (f : RRR) : Bool :=
  f.ty == 0 && f.imm == 0 && f.c == 0 && f.md &&& 0xD0 == 0 && (f.md.getLsbD 5 || f.b == 0)

/-- SIGN, mask form (R411). -/
def signMaskWf (f : RRR) : Bool :=
  f.ty == 0 && f.imm == 0 && even f.a && f.md &&& 0xD0 == 0x10 && (f.md.getLsbD 5 || f.b == 0)

/-- The stitch field is zero when sb is 0 (R85, R113). -/
def stitchOk (sb : BitVec 1) (st : BitVec 4) : Bool := sb == 1 || st == 0

/-- ACCFREE and ACCZERO (R111). -/
def tileOnly (f : RRR) : Bool :=
  f.md.toNat ≤ 95 && f.d == 0 && f.a == 0 && f.b == 0 && f.c == 0 && f.ty == 0 && f.imm == 0

/-- The knot enable of COPY and COMET (R112). -/
def knotMode (f : TX) : Bool := f.mode.toNat ≤ 1 && (f.mode == 1 || f.kn == 0)

/-- The key type of a ply word (R87). -/
def plyKey (f : PL) : Bool := f.ty == 8 || f.ty == 9 || f.ty == 10 || f.ty == 12

/-- PLYKEEP and PLYFREE (R113). -/
def plyMapOnly (f : PL) : Bool :=
  f.d == 0 && f.a == 0 && f.b == 0 && f.c == 0 && f.ty == 0 && f.sb == 0 && f.stitch == 0

/-- EVSET, EVCLR and EVWAIT (R114, R360). -/
def eventWf (f : SY) : Bool :=
  f.sel.toNat ≤ 255 && f.d == 0 && f.a == 0 && f.b == 0 && f.md == 0 && f.imm == 0

/-- KNARR (R114, R375). -/
def knarrWf (f : SY) : Bool :=
  f.d == 0 && f.b == 0 && f.sel == 0 && f.imm != 0 && f.md &&& 0xE0 == 0 && (f.md.getLsbD 4 || f.md == 0)

/-- Skein words that use only sel (R114). -/
def skeinOnly (f : SY) : Bool := f.d == 0 && f.a == 0 && f.b == 0 && f.md == 0 && f.imm == 0

/-- An instruction word is well formed; a device step has no encoding and is never ill formed. -/
def Instr.wf : Instr → Bool
  | .nop _ f => f.allZero
  | .add _ f => intImm f true
  | .sub _ f => intImm f true
  | .mul _ f => intImm f true
  | .mulh _ f => intImm f false
  | .mad _ f => intMad f
  | .min _ f => intImm f false
  | .max _ f => intImm f false
  | .abs _ f => intSigned1 f
  | .neg _ f => intSigned1 f
  | .and _ f => intImm f false
  | .or _ f => intImm f false
  | .xor _ f => intImm f false
  | .not _ f => int1 f
  | .shl _ f => intImm f false
  | .shr _ f => intImm f false
  | .sar _ f => intImm f false
  | .bfx _ f => intBfx f
  | .bfi _ f => intBfi f
  | .popc _ f => int1 f
  | .clz _ f => int1 f
  | .cmp _ f => intCmp f
  | .sel _ f => intSel f
  | .mov _ f => movWf f
  | .lea _ f => leaWf f
  | .movi _ f => moviWf f
  | .fadd _ f => float2 f
  | .fsub _ f => float2 f
  | .fmul _ f => float2 f
  | .ffma _ f => float3 f
  | .fmin _ f => floatSel f
  | .fmax _ f => floatSel f
  | .fcmp _ f => floatCmp f
  | .fclass _ f => floatClass f
  | .frcp _ f => float1 f
  | .frsq _ f => float1 f
  | .fexp2 _ f => float1 f
  | .flog2 _ f => float1 f
  | .cvt _ f => cvtWf f
  | .cvtPk _ f => cvtSlot f 0
  | .cvtUp _ f => cvtSlot f 1
  | .ld _ f => loadWf f true
  | .st _ f => storeWf f true
  | .lds _ f => loadWf f false
  | .sts _ f => storeWf f false
  | .cas _ f => casWf f
  | .cas128 _ f => cas128Wf f
  | .fence _ f => fenceWf f
  | .fenceFlush _ f => fenceWf f
  | .atomAdd _ f => atomWf f (tyI f.ty || f.ty == 10)
  | .atomMin _ f => atomWf f (tyI f.ty)
  | .atomMax _ f => atomWf f (tyI f.ty)
  | .atomAnd _ f => atomWf f (tyI f.ty)
  | .atomOr _ f => atomWf f (tyI f.ty)
  | .atomXor _ f => atomWf f (tyI f.ty)
  | .atomExch _ f => atomWf f (tyI f.ty)
  | .atomInc _ f => atomWf f (f.ty == 2 || f.ty == 3)
  | .bra _ f => f.d == 0
  | .brx _ f => even f.d && f.offset == 0
  | .call _ f => f.d == 0
  | .ret _ f => f.d == 0 && f.offset == 0
  | .exit _ f => f.d == 0 && f.offset == 0
  | .yield _ f => f.allZero
  | .trap _ f => f.d == 0 && f.a == 0 && f.ty == 0 && f.md == 0
  | .brk _ f => f.d == 0 && f.a == 0 && f.ty == 0 && f.md == 0
  | .step _ f => f.d == 0 && f.a == 0 && f.ty == 0 && f.md == 0
  | .sign _ f => signWf f
  | .signMask _ f => signMaskWf f
  | .waitm _ f => waitmWf f
  | .pfx c f => c.park == false && c.guard == 7 && f.d == 0 && f.a == 0 && f.ty == 0 && f.md == 0
  | .vadd _ _ => true
  | .vmul _ _ => true
  | .vfma _ _ => true
  | .vmax _ f => f.sat == 0
  | .vexp _ f => f.b == 0 && f.sb == 0
  | .vcopy _ f => f.b == 0 && f.sb == 0 && f.sat == 0
  | .vsum _ f => f.b == 0 && f.sb == 0 && f.sd == 0
  | .vrms _ f => f.sat == 0
  | .vsmb _ f => f.sat == 0
  | .vspc _ _ f => f.sd == 0 && f.sb == 0 && f.sat == 0
  | .vcvtPk _ _ f => f.b == 0 && f.sd == 0 && f.sb == 0 && f.sat == 0
  | .vcvtUp _ _ f => f.b == 0 && f.sa == 0 && f.sb == 0 && f.sat == 0
  | .mma _ f => f.acc.toNat ≤ 95 && f.meta' == 0 && stitchOk f.sb f.stitch
  | .mmas _ f => f.acc.toNat ≤ 95 && even f.meta' && stitchOk f.sb f.stitch
  | .accalloc _ f => 1 ≤ f.md.toNat && f.md.toNat ≤ 96 && f.a == 0 && f.b == 0 && f.c == 0 && f.ty == 0 && f.imm == 0
  | .accfree _ f => tileOnly f
  | .acczero _ f => tileOnly f
  | .accrd _ _ f => f.md.toNat ≤ 95 && f.d == 0 && f.b == 0 && f.c == 0 && f.ty == 0 && f.imm == 0
  | .rstl _ f => even f.a && even f.b && f.d == 0 && f.c == 0 && f.ty == 0 && f.md == 0 && f.imm == 0
  | .copy _ f => even f.shape && even f.hd && f.tok == 0 && f.arg == 0 && knotMode f
  | .comet _ f => even f.shape && even f.hd && f.arg.toNat ≤ 60 && knotMode f
  | .seal _ f => f.shape == 0 && f.hd == 0 && f.arg == 0 && f.kn == 0 && f.mode == 0
  | .waitb _ f => f.shape == 0 && f.hd == 0 && f.tok == 0 && f.arg == 0 && f.kn == 0
  | .pref _ f => f.ty.toNat ≤ 3 && even f.base && f.d == 0 && f.data == 0 && f.order == 0 && f.hint.toNat ≤ 3
  | .prefList _ f => even f.shape && f.hd == 0 && f.tok == 0 && f.arg == 0 && f.kn == 0 && f.mode.toNat ≤ 2
  | .plymatch _ f => plyKey f && stitchOk f.sb f.stitch
  | .plymerge _ f => plyKey f && f.sb == 0 && f.stitch == 0
  | .plysplit _ f => plyKey f && f.c == 0 && f.sb == 0 && f.stitch == 0
  | .plykeep _ f => plyMapOnly f
  | .plyfree _ f => plyMapOnly f
  | .mvs _ f => f.sel.toNat ≤ 16 && (f.sel != 7 || even f.d) && f.a == 0 && f.b == 0 && f.md == 0 && f.imm == 0
  | .evset _ f => eventWf f
  | .evclr _ f => eventWf f
  | .evwait _ f => eventWf f
  | .launch _ f => even f.a && f.b == 0 && f.sel == 0 && f.md == 0 && f.imm == 0
  | .kninit _ f => f.d == 0 && f.sel == 0 && f.md == 0 && f.imm == 0
  | .knarr _ f => knarrWf f
  | .knwait _ f => f.d == 0 && f.b == 0 && f.sel == 0 && f.md == 0 && f.imm == 0
  | .skmap _ f => even f.a && f.d == 0 && f.b == 0 && f.md == 0 && f.imm == 0 && f.sel.toNat ≤ 63
  | .skunmap _ f => skeinOnly f && f.sel.toNat ≤ 63
  | .skflush _ f => skeinOnly f && f.sel.toNat ≤ 63
  | .skflushAll _ f => skeinOnly f && f.sel == 1023
  | .skquery _ f => even f.d && f.a == 0 && f.b == 0 && f.md == 0 && f.imm == 0 && f.sel.toNat ≤ 63
  | .deviceReset => true
  | .devFeatAccWrite _ => true
  | .featLock _ => true
  | .ctxCreate _ => true
  | .ctxDestroy _ => true
  | .ctxDestroyComplete _ => true
  | .ctxResRead => true
  | .graphDb _ => true
  | .evHostSet _ => true
  | .evHostClear _ => true
  | .ctxDroppedRead => true
  | .ctxStateRead => true
  | .registerWrite _ _ => true
  | .dirCtlWrite _ _ => true
  | .heatCtlWrite _ _ => true
  | .hclr _ => true
  | .heatClearDone _ => true
  | .heatRead _ _ => true
  | .aliasInfoRead _ => true
  | .fqHeadWrite _ => true
  | .fqReplay _ => true
  | .fqReplayAll _ => true
  | .fqReplayFail _ => true
  | .ctxSuspend => true
  | .ctxResume => true
  | .ctxWb => true
  | .ctxWbDone _ => true
  | .wpLostRead => true
  | .cutReq _ => true
  | .cutRel _ => true
  | .cutReduce _ _ => true
  | .cutComplete _ => true
  | .cutAbort _ => true
  | .lmemBoundWrite _ => true
  | .shootdownRange _ => true
  | .shootdownAll _ => true
  | .shootdownPerform => true
  | .sdStatOvfClear => true
  | .wpCtlWrite _ _ => true
  | .keyLoad _ => true
  | .keyErase _ => true
  | .keyCmdComplete => true
  | .strandWb _ => true
  | .strandDisc _ => true
  | .strandCmdComplete => true
  | .strandTimerExpire => true
  | .fwUpdateGo _ _ => true
  | .fwDieUpdate => true
  | .fwUpdateComplete => true
  | .bootRootStart => true
  | .bootOfferReceived _ => true
  | .bootImageVerified _ _ => true
  | .hostLinkLost _ => true
  | .colrokLinkLost _ => true
  | .ucieLinkFatal => true
  | .corePowerGate _ => true
  | .coreClockChange _ => true
  | .courseForm _ _ => true
  | .clauseEnter _ _ => true
  | .clauseFetch _ _ _ => true
  | .threadOverdue _ _ _ => true
  | .pendingWriteArrive _ _ _ _ => true
  | .signTimeout _ _ _ => true
  | .waitmWake _ _ _ => true
  | .waitmPoll _ _ _ => true
  | .queueWordAccept _ _ _ => true
  | .matrixOpStart _ => true
  | .matrixKblockComplete _ => true
  | .accGrant _ => true
  | .plyOpStart _ => true
  | .plyOpComplete _ => true
  | .plyMapObtain _ _ => true
  | .sweepOpStart _ => true
  | .sweepIteration _ => true
  | .segmentFillComplete _ _ _ => true
  | .copyAccept _ => true
  | .copyChunkComplete _ _ _ => true
  | .cometAccept _ => true
  | .cometBurstRequest _ _ => true
  | .cometBurstLand _ _ _ => true
  | .cometThreadStart _ _ => true
  | .blockEnd _ _ => true
  | .blockPlace _ => true
  | .blockPreempt _ _ => true
  | .blockResume _ _ => true
  | .skidBoundExpire _ _ => true
  | .nodeRead _ _ => true
  | .nodeKernelStart _ _ => true
  | .nodeCond _ => true
  | .nodeWhile _ => true
  | .nodeEvent _ _ => true
  | .nodeHost _ _ => true
  | .nodeEnd _ => true
  | .gridFinish _ _ => true
  | .eventMirrorWrite _ => true
  | .homeRequest _ _ => true
  | .requestRetry _ _ => true
  | .forcedPublish _ _ => true
  | .wideReleaseComplete _ _ => true
  | .hostMemRequest _ => true
  | .hostSnoopResponse _ => true
  | .podRequest _ _ => true
  | .atomicopCompletion _ _ _ => true
  | .translationWalk _ _ => true
  | .faultEntryWrite _ => true
  | .contextHalt _ => true
  | .haltComplete _ => true
  | .segmentWriteBackDone _ _ _ => true
  | .hostPortLinkUp _ => true
  | .colrokLinkUp _ _ => true

end Sys2Proof
end

