-- ==== Sys2Proof/Decode.lean ====
section
/-! DEFINITION. Decoding a clause header (R61 to R63) and an instruction word in its clause's class (R68, R69, R80 to
R90, R104 to R115), and the encoder written from the same tables. Decoding is total and rejects by name. -/

namespace Sys2Proof

/-- Bits [lo+len-1:lo] of a doubleword. -/
def bits (w : DWord) (lo len : Nat) : BitVec len := w.extractLsb' lo len

/-- A clause header's fields (R62). -/
structure Header where
  cls : Nat
  count : Nat
  w : Nat
  kw : Bool
  kreg : Nat
  sw : Bool
  stitch : Nat
  deriving DecidableEq, Repr

/-- Reads a header's fields (R62); `count` is the number of words. -/
def headerOf (h : DWord) : Header :=
  { cls := (bits h 60 4).toNat, count := (bits h 56 4).toNat + 1, w := (bits h 48 8).toNat, kw := bits h 47 1 == 1,
    kreg := (bits h 41 6).toNat, sw := bits h 40 1 == 1, stitch := (bits h 36 4).toNat }

/-- The header breaks R63. -/
def headerBad (h : DWord) : Bool :=
  let f := headerOf h
  f.cls > 5 || bits h 0 36 != 0 || (!f.kw && f.kreg != 0) || (!f.sw && f.stitch != 0)

/-- The header of a clause of class `cls` with `n` words and no waits (R62, R95). -/
def plainHeader (cls n : Nat) : DWord :=
  (BitVec.ofNat 4 cls ++ BitVec.ofNat 4 (n - 1) ++ (0xFF : BitVec 8) ++ (0 : BitVec 48))

/-- Why a word is refused. -/
inductive DecodeError where
  /-- The opcode is not assigned in the clause's class (R104). -/
  | unassigned
  /-- Bits that the format leaves out are not all zero (R72, R80). -/
  | reservedBits
  /-- A field holds a value that the opcode map does not allow (R72, R73, R104). -/
  | badField
  deriving DecidableEq, Repr

/-- The common fields (R69). -/
def ctlOf (w : DWord) : Ctl := { park := bits w 63 1 == 1, guard := bits w 52 4 }

/-- OPC (R69). -/
def opcOf (w : DWord) : BitVec 7 := bits w 56 7

def rrrOf (w : DWord) : RRR :=
  { d := bits w 46 6, a := bits w 40 6, b := bits w 34 6, c := bits w 28 6, ty := bits w 24 4, md := bits w 16 8, imm := bits w 0 16 }
def riOf (w : DWord) : RI := { d := bits w 46 6, a := bits w 40 6, ty := bits w 36 4, md := bits w 32 4, imm := bits w 0 32 }
def memOf (w : DWord) : MEM :=
  { d := bits w 46 6, base := bits w 40 6, data := bits w 34 6, ty := bits w 24 4, order := bits w 22 2, scope := bits w 20 2,
    hint := bits w 16 4, offset := bits w 0 16 }
def brOf (w : DWord) : BR := { d := bits w 46 6, offset := bits w 0 32 }
def swOf (w : DWord) : SW :=
  { n := bits w 40 12, d := bits w 34 6, a := bits w 28 6, b := bits w 22 6, sd := bits w 15 7, sa := bits w 8 7, sb := bits w 1 7,
    sat := bits w 0 1 }
def mxOf (w : DWord) : MX :=
  { acc := bits w 45 7, aq := bits w 41 4, bq := bits w 37 4, k := bits w 31 6, aslot := bits w 28 3, bslot := bits w 25 3,
    stitch := bits w 21 4, sb := bits w 20 1, zf := bits w 19 1, meta' := bits w 13 6 }
def txOf (w : DWord) : TX :=
  { shape := bits w 46 6, hd := bits w 40 6, tok := bits w 34 6, arg := bits w 28 6, kn := bits w 22 6, mode := bits w 16 6 }
def plOf (w : DWord) : PL :=
  { map := bits w 49 3, d := bits w 43 6, a := bits w 37 6, b := bits w 31 6, c := bits w 25 6, stitch := bits w 21 4, sb := bits w 20 1,
    ty := bits w 16 4 }
def syOf (w : DWord) : SY :=
  { d := bits w 46 6, a := bits w 40 6, b := bits w 34 6, sel := bits w 24 10, md := bits w 16 8, imm := bits w 0 16 }

/-- The bits that a format leaves out are zero (R80: bits that a table omits are reserved). -/
def memRsv (w : DWord) : Bool := bits w 28 6 == 0
def brRsv (w : DWord) : Bool := bits w 32 14 == 0
def mxRsv (w : DWord) : Bool := bits w 0 13 == 0
def txRsv (w : DWord) : Bool := bits w 0 16 == 0
def plRsv (w : DWord) : Bool := bits w 0 16 == 0

/-- The element type of a VSPC opcode (R110). -/
def pruneTypeOf (op : Nat) : PruneType :=
  match op with
  | 0x10 => .i8
  | 0x11 => .e4m3
  | 0x12 => .e5m2
  | 0x13 => .f16
  | _ => .bf16

/-- The opcode of a VSPC element type (R110). -/
def pruneCode : PruneType → Nat
  | .i8 => 0x10
  | .e4m3 => 0x11
  | .e5m2 => 0x12
  | .f16 => 0x13
  | .bf16 => 0x14

/-- Class 0, SIMT: the word with opcode `op`, and whether its reserved bits are zero; none where `op` is not assigned (R107). -/
def decodeSIMT (op : Nat) (w : DWord) : Option (Instr × Bool) :=
  let c := ctlOf w
  match op with
  | 0x00 => some (.nop c (rrrOf w), true)
  | 0x01 => some (.add c (rrrOf w), true)
  | 0x02 => some (.sub c (rrrOf w), true)
  | 0x03 => some (.mul c (rrrOf w), true)
  | 0x04 => some (.mulh c (rrrOf w), true)
  | 0x05 => some (.mad c (rrrOf w), true)
  | 0x06 => some (.min c (rrrOf w), true)
  | 0x07 => some (.max c (rrrOf w), true)
  | 0x08 => some (.abs c (rrrOf w), true)
  | 0x09 => some (.neg c (rrrOf w), true)
  | 0x0A => some (.and c (rrrOf w), true)
  | 0x0B => some (.or c (rrrOf w), true)
  | 0x0C => some (.xor c (rrrOf w), true)
  | 0x0D => some (.not c (rrrOf w), true)
  | 0x0E => some (.shl c (rrrOf w), true)
  | 0x0F => some (.shr c (rrrOf w), true)
  | 0x10 => some (.sar c (rrrOf w), true)
  | 0x11 => some (.bfx c (rrrOf w), true)
  | 0x12 => some (.bfi c (rrrOf w), true)
  | 0x13 => some (.popc c (rrrOf w), true)
  | 0x14 => some (.clz c (rrrOf w), true)
  | 0x15 => some (.cmp c (rrrOf w), true)
  | 0x16 => some (.sel c (rrrOf w), true)
  | 0x17 => some (.mov c (rrrOf w), true)
  | 0x18 => some (.lea c (rrrOf w), true)
  | 0x19 => some (.movi c (riOf w), true)
  | 0x20 => some (.fadd c (rrrOf w), true)
  | 0x21 => some (.fsub c (rrrOf w), true)
  | 0x22 => some (.fmul c (rrrOf w), true)
  | 0x23 => some (.ffma c (rrrOf w), true)
  | 0x24 => some (.fmin c (rrrOf w), true)
  | 0x25 => some (.fmax c (rrrOf w), true)
  | 0x26 => some (.fcmp c (rrrOf w), true)
  | 0x27 => some (.fclass c (rrrOf w), true)
  | 0x28 => some (.frcp c (rrrOf w), true)
  | 0x29 => some (.frsq c (rrrOf w), true)
  | 0x2A => some (.fexp2 c (rrrOf w), true)
  | 0x2B => some (.flog2 c (rrrOf w), true)
  | 0x2C => some (.cvt c (rrrOf w), true)
  | 0x2D => some (if bits w 19 1 == 1 then .cvtUp c (rrrOf w) else .cvtPk c (rrrOf w), true)
  | 0x30 => some (.ld c (memOf w), memRsv w)
  | 0x31 => some (.st c (memOf w), memRsv w)
  | 0x32 => some (.lds c (memOf w), memRsv w)
  | 0x33 => some (.sts c (memOf w), memRsv w)
  | 0x34 => some (.cas c (memOf w), memRsv w)
  | 0x35 => some (.cas128 c (memOf w), memRsv w)
  | 0x36 => some (.fence c (memOf w), memRsv w)
  | 0x37 => some (.fenceFlush c (memOf w), memRsv w)
  | 0x38 => some (.atomAdd c (memOf w), memRsv w)
  | 0x39 => some (.atomMin c (memOf w), memRsv w)
  | 0x3A => some (.atomMax c (memOf w), memRsv w)
  | 0x3B => some (.atomAnd c (memOf w), memRsv w)
  | 0x3C => some (.atomOr c (memOf w), memRsv w)
  | 0x3D => some (.atomXor c (memOf w), memRsv w)
  | 0x3E => some (.atomExch c (memOf w), memRsv w)
  | 0x3F => some (.atomInc c (memOf w), memRsv w)
  | 0x40 => some (.bra c (brOf w), brRsv w)
  | 0x41 => some (.brx c (brOf w), brRsv w)
  | 0x42 => some (.call c (brOf w), brRsv w)
  | 0x43 => some (.ret c (brOf w), brRsv w)
  | 0x44 => some (.exit c (brOf w), brRsv w)
  | 0x45 => some (.yield c (rrrOf w), true)
  | 0x46 => some (.trap c (riOf w), true)
  | 0x47 => some (.brk c (riOf w), true)
  | 0x48 => some (.step c (riOf w), true)
  | 0x49 => some (if bits w 20 1 == 1 then .signMask c (rrrOf w) else .sign c (rrrOf w), true)
  | 0x4A => some (.waitm c (memOf w), memRsv w)
  | 0x7F => some (.pfx c (riOf w), true)
  | _ => none

/-- Class 1, sweep: the word with opcode `op`, and whether its reserved bits are zero; none where `op` is not assigned (R110). -/
def decodeSweep (op : Nat) (w : DWord) : Option (Instr × Bool) :=
  let c := ctlOf w
  match op with
  | 0x00 => some (.vadd c (swOf w), true)
  | 0x01 => some (.vmul c (swOf w), true)
  | 0x02 => some (.vfma c (swOf w), true)
  | 0x03 => some (.vmax c (swOf w), true)
  | 0x04 => some (.vsum c (swOf w), true)
  | 0x05 => some (.vexp c (swOf w), true)
  | 0x06 => some (.vcopy c (swOf w), true)
  | 0x07 => some (.vrms c (swOf w), true)
  | 0x08 => some (.vsmb c (swOf w), true)
  | 0x10 => some (.vspc c (pruneTypeOf 0x10) (swOf w), true)
  | 0x11 => some (.vspc c (pruneTypeOf 0x11) (swOf w), true)
  | 0x12 => some (.vspc c (pruneTypeOf 0x12) (swOf w), true)
  | 0x13 => some (.vspc c (pruneTypeOf 0x13) (swOf w), true)
  | 0x14 => some (.vspc c (pruneTypeOf 0x14) (swOf w), true)
  | 0x18 => some (.vcvtPk c 0 (swOf w), true)
  | 0x19 => some (.vcvtPk c 1 (swOf w), true)
  | 0x1A => some (.vcvtPk c 2 (swOf w), true)
  | 0x1B => some (.vcvtPk c 3 (swOf w), true)
  | 0x1C => some (.vcvtPk c 4 (swOf w), true)
  | 0x1D => some (.vcvtPk c 5 (swOf w), true)
  | 0x1E => some (.vcvtPk c 6 (swOf w), true)
  | 0x1F => some (.vcvtPk c 7 (swOf w), true)
  | 0x20 => some (.vcvtUp c 0 (swOf w), true)
  | 0x21 => some (.vcvtUp c 1 (swOf w), true)
  | 0x22 => some (.vcvtUp c 2 (swOf w), true)
  | 0x23 => some (.vcvtUp c 3 (swOf w), true)
  | 0x24 => some (.vcvtUp c 4 (swOf w), true)
  | 0x25 => some (.vcvtUp c 5 (swOf w), true)
  | 0x26 => some (.vcvtUp c 6 (swOf w), true)
  | 0x27 => some (.vcvtUp c 7 (swOf w), true)
  | _ => none

/-- Class 2, matrix: the word with opcode `op`, and whether its reserved bits are zero; none where `op` is not assigned (R111). -/
def decodeMatrix (op : Nat) (w : DWord) : Option (Instr × Bool) :=
  let c := ctlOf w
  match op with
  | 0x00 => some (.mma c (mxOf w), mxRsv w)
  | 0x01 => some (.mmas c (mxOf w), mxRsv w)
  | 0x10 => some (.accalloc c (rrrOf w), true)
  | 0x11 => some (.accfree c (rrrOf w), true)
  | 0x12 => some (.acczero c (rrrOf w), true)
  | 0x14 => some (.rstl c (rrrOf w), true)
  | 0x18 => some (.accrd c 0 (rrrOf w), true)
  | 0x19 => some (.accrd c 1 (rrrOf w), true)
  | 0x1A => some (.accrd c 2 (rrrOf w), true)
  | 0x1B => some (.accrd c 3 (rrrOf w), true)
  | 0x1C => some (.accrd c 4 (rrrOf w), true)
  | 0x1D => some (.accrd c 5 (rrrOf w), true)
  | 0x1E => some (.accrd c 6 (rrrOf w), true)
  | 0x1F => some (.accrd c 7 (rrrOf w), true)
  | _ => none

/-- Class 3, transfer: the word with opcode `op`, and whether its reserved bits are zero; none where `op` is not assigned (R112). -/
def decodeTransfer (op : Nat) (w : DWord) : Option (Instr × Bool) :=
  let c := ctlOf w
  match op with
  | 0x00 => some (.copy c (txOf w), txRsv w)
  | 0x01 => some (.comet c (txOf w), txRsv w)
  | 0x02 => some (.seal c (txOf w), txRsv w)
  | 0x03 => some (.waitb c (txOf w), txRsv w)
  | 0x10 => some (.pref c (memOf w), memRsv w)
  | 0x11 => some (.prefList c (txOf w), txRsv w)
  | _ => none

/-- Class 4, ply: the word with opcode `op`, and whether its reserved bits are zero; none where `op` is not assigned (R113). -/
def decodePly (op : Nat) (w : DWord) : Option (Instr × Bool) :=
  let c := ctlOf w
  match op with
  | 0x00 => some (.plymatch c (plOf w), plRsv w)
  | 0x01 => some (.plymerge c (plOf w), plRsv w)
  | 0x02 => some (.plysplit c (plOf w), plRsv w)
  | 0x03 => some (.plykeep c (plOf w), plRsv w)
  | 0x04 => some (.plyfree c (plOf w), plRsv w)
  | _ => none

/-- Class 5, system: the word with opcode `op`, and whether its reserved bits are zero; none where `op` is not assigned (R114). -/
def decodeSystem (op : Nat) (w : DWord) : Option (Instr × Bool) :=
  let c := ctlOf w
  match op with
  | 0x00 => some (.mvs c (syOf w), true)
  | 0x08 => some (.evset c (syOf w), true)
  | 0x09 => some (.evclr c (syOf w), true)
  | 0x0A => some (.evwait c (syOf w), true)
  | 0x0B => some (.launch c (syOf w), true)
  | 0x10 => some (.kninit c (syOf w), true)
  | 0x11 => some (.knarr c (syOf w), true)
  | 0x12 => some (.knwait c (syOf w), true)
  | 0x18 => some (.skmap c (syOf w), true)
  | 0x19 => some (.skunmap c (syOf w), true)
  | 0x1A => some (if bits w 24 10 == 1023 then .skflushAll c (syOf w) else .skflush c (syOf w), true)
  | 0x1B => some (.skquery c (syOf w), true)
  | _ => none

/-- The opcode map of a class (R68). -/
def decodeOpc (cls op : Nat) (w : DWord) : Option (Instr × Bool) :=
  match cls with
  | 0 => decodeSIMT op w
  | 1 => decodeSweep op w
  | 2 => decodeMatrix op w
  | 3 => decodeTransfer op w
  | 4 => decodePly op w
  | 5 => decodeSystem op w
  | _ => none

/-- Decodes one word in a clause of class `cls`. -/
def decodeWord (cls : Nat) (w : DWord) : Except DecodeError Instr :=
  match decodeOpc cls (opcOf w).toNat w with
  | none => .error .unassigned
  | some (i, rsv) => if !rsv then .error .reservedBits else if i.wf then .ok i else .error .badField

/-- The unit a class and opcode belong to, where that unit may be absent (R6, R105). -/
inductive UnitOf where
  | ply | sparse | comet
  deriving DecidableEq, Repr

/-- PLY for every assigned opcode of class 4, SPARSE for MMAS and VSPC, COMET for COMET (R105). -/
def unitOf (cls op : Nat) : Option UnitOf :=
  if cls == 4 && op ≤ 4 then some .ply
  else if cls == 2 && op == 1 then some .sparse
  else if cls == 1 && 0x10 ≤ op && op ≤ 0x14 then some .sparse
  else if cls == 3 && op == 1 then some .comet
  else none

/-- One of the eleven words of R71, which must stand last in its clause. -/
def lastOnly (cls op : Nat) : Bool :=
  (cls == 0 && ((0x40 ≤ op && op ≤ 0x44) || op == 0x46 || op == 0x47 || op == 0x49 || op == 0x4A)) ||
    (cls == 5 && (op == 0x0A || op == 0x12))

/-- The word is a PFX (R89): opcode 0x7F of class 0. -/
def isPfx (cls op : Nat) : Bool := cls == 0 && op == 0x7F

/-- The word accepts a PFX extension (R89, R107: the Ext column). -/
def acceptsExt : Instr → Bool
  | .add _ f | .sub _ f | .mul _ f | .mulh _ f | .mad _ f | .min _ f | .max _ f | .and _ f | .or _ f | .xor _ f | .cmp _ f | .sel _ f
  | .lea _ f => f.md.getLsbD 7
  | .movi _ f => f.ty == 3 || f.ty == 7
  | .ld _ _ | .st _ _ | .lds _ _ | .sts _ _ | .cas _ _ | .cas128 _ _ | .atomAdd _ _ | .atomMin _ _ | .atomMax _ _ | .atomAnd _ _
  | .atomOr _ _ | .atomXor _ _ | .atomExch _ _ | .atomInc _ _ | .waitm _ _ => true
  | _ => false

/-! ### The encoder -/

/-- The first twelve bits of a word: K, OPC, GUARD (R69). -/
def leadBits (c : Ctl) (op : Nat) : BitVec 12 := BitVec.ofBool c.park ++ BitVec.ofNat 7 op ++ c.guard

def RRR.enc (c : Ctl) (op : Nat) (f : RRR) : DWord := leadBits c op ++ f.d ++ f.a ++ f.b ++ f.c ++ f.ty ++ f.md ++ f.imm
def RI.enc (c : Ctl) (op : Nat) (f : RI) : DWord := leadBits c op ++ f.d ++ f.a ++ f.ty ++ f.md ++ f.imm
def MEM.enc (c : Ctl) (op : Nat) (f : MEM) : DWord :=
  leadBits c op ++ f.d ++ f.base ++ f.data ++ (0 : BitVec 6) ++ f.ty ++ f.order ++ f.scope ++ f.hint ++ f.offset
def BR.enc (c : Ctl) (op : Nat) (f : BR) : DWord := leadBits c op ++ f.d ++ (0 : BitVec 14) ++ f.offset
def SW.enc (c : Ctl) (op : Nat) (f : SW) : DWord := leadBits c op ++ f.n ++ f.d ++ f.a ++ f.b ++ f.sd ++ f.sa ++ f.sb ++ f.sat
def MX.enc (c : Ctl) (op : Nat) (f : MX) : DWord :=
  leadBits c op ++ f.acc ++ f.aq ++ f.bq ++ f.k ++ f.aslot ++ f.bslot ++ f.stitch ++ f.sb ++ f.zf ++ f.meta' ++ (0 : BitVec 13)
def TX.enc (c : Ctl) (op : Nat) (f : TX) : DWord :=
  leadBits c op ++ f.shape ++ f.hd ++ f.tok ++ f.arg ++ f.kn ++ f.mode ++ (0 : BitVec 16)
def PL.enc (c : Ctl) (op : Nat) (f : PL) : DWord :=
  leadBits c op ++ f.map ++ f.d ++ f.a ++ f.b ++ f.c ++ f.stitch ++ f.sb ++ f.ty ++ (0 : BitVec 16)
def SY.enc (c : Ctl) (op : Nat) (f : SY) : DWord := leadBits c op ++ f.d ++ f.a ++ f.b ++ f.sel ++ f.md ++ f.imm

/-- The class and the word of an instruction word; none for a device step, which has no encoding. -/
def encode : Instr → Option (Nat × DWord)
  | .nop c f => some (0, f.enc c 0x00)
  | .add c f => some (0, f.enc c 0x01)
  | .sub c f => some (0, f.enc c 0x02)
  | .mul c f => some (0, f.enc c 0x03)
  | .mulh c f => some (0, f.enc c 0x04)
  | .mad c f => some (0, f.enc c 0x05)
  | .min c f => some (0, f.enc c 0x06)
  | .max c f => some (0, f.enc c 0x07)
  | .abs c f => some (0, f.enc c 0x08)
  | .neg c f => some (0, f.enc c 0x09)
  | .and c f => some (0, f.enc c 0x0A)
  | .or c f => some (0, f.enc c 0x0B)
  | .xor c f => some (0, f.enc c 0x0C)
  | .not c f => some (0, f.enc c 0x0D)
  | .shl c f => some (0, f.enc c 0x0E)
  | .shr c f => some (0, f.enc c 0x0F)
  | .sar c f => some (0, f.enc c 0x10)
  | .bfx c f => some (0, f.enc c 0x11)
  | .bfi c f => some (0, f.enc c 0x12)
  | .popc c f => some (0, f.enc c 0x13)
  | .clz c f => some (0, f.enc c 0x14)
  | .cmp c f => some (0, f.enc c 0x15)
  | .sel c f => some (0, f.enc c 0x16)
  | .mov c f => some (0, f.enc c 0x17)
  | .lea c f => some (0, f.enc c 0x18)
  | .movi c f => some (0, f.enc c 0x19)
  | .fadd c f => some (0, f.enc c 0x20)
  | .fsub c f => some (0, f.enc c 0x21)
  | .fmul c f => some (0, f.enc c 0x22)
  | .ffma c f => some (0, f.enc c 0x23)
  | .fmin c f => some (0, f.enc c 0x24)
  | .fmax c f => some (0, f.enc c 0x25)
  | .fcmp c f => some (0, f.enc c 0x26)
  | .fclass c f => some (0, f.enc c 0x27)
  | .frcp c f => some (0, f.enc c 0x28)
  | .frsq c f => some (0, f.enc c 0x29)
  | .fexp2 c f => some (0, f.enc c 0x2A)
  | .flog2 c f => some (0, f.enc c 0x2B)
  | .cvt c f => some (0, f.enc c 0x2C)
  | .cvtPk c f => some (0, f.enc c 0x2D)
  | .cvtUp c f => some (0, f.enc c 0x2D)
  | .ld c f => some (0, f.enc c 0x30)
  | .st c f => some (0, f.enc c 0x31)
  | .lds c f => some (0, f.enc c 0x32)
  | .sts c f => some (0, f.enc c 0x33)
  | .cas c f => some (0, f.enc c 0x34)
  | .cas128 c f => some (0, f.enc c 0x35)
  | .fence c f => some (0, f.enc c 0x36)
  | .fenceFlush c f => some (0, f.enc c 0x37)
  | .atomAdd c f => some (0, f.enc c 0x38)
  | .atomMin c f => some (0, f.enc c 0x39)
  | .atomMax c f => some (0, f.enc c 0x3A)
  | .atomAnd c f => some (0, f.enc c 0x3B)
  | .atomOr c f => some (0, f.enc c 0x3C)
  | .atomXor c f => some (0, f.enc c 0x3D)
  | .atomExch c f => some (0, f.enc c 0x3E)
  | .atomInc c f => some (0, f.enc c 0x3F)
  | .bra c f => some (0, f.enc c 0x40)
  | .brx c f => some (0, f.enc c 0x41)
  | .call c f => some (0, f.enc c 0x42)
  | .ret c f => some (0, f.enc c 0x43)
  | .exit c f => some (0, f.enc c 0x44)
  | .yield c f => some (0, f.enc c 0x45)
  | .trap c f => some (0, f.enc c 0x46)
  | .brk c f => some (0, f.enc c 0x47)
  | .step c f => some (0, f.enc c 0x48)
  | .sign c f => some (0, f.enc c 0x49)
  | .signMask c f => some (0, f.enc c 0x49)
  | .waitm c f => some (0, f.enc c 0x4A)
  | .pfx c f => some (0, f.enc c 0x7F)
  | .vadd c f => some (1, f.enc c 0x00)
  | .vmul c f => some (1, f.enc c 0x01)
  | .vfma c f => some (1, f.enc c 0x02)
  | .vmax c f => some (1, f.enc c 0x03)
  | .vexp c f => some (1, f.enc c 0x05)
  | .vcopy c f => some (1, f.enc c 0x06)
  | .vsum c f => some (1, f.enc c 0x04)
  | .vrms c f => some (1, f.enc c 0x07)
  | .vsmb c f => some (1, f.enc c 0x08)
  | .vspc c t f => some (1, f.enc c (pruneCode t))
  | .vcvtPk c s f => some (1, f.enc c (0x18 + s.toNat))
  | .vcvtUp c s f => some (1, f.enc c (0x20 + s.toNat))
  | .mma c f => some (2, f.enc c 0x00)
  | .mmas c f => some (2, f.enc c 0x01)
  | .accalloc c f => some (2, f.enc c 0x10)
  | .accfree c f => some (2, f.enc c 0x11)
  | .acczero c f => some (2, f.enc c 0x12)
  | .accrd c s f => some (2, f.enc c (0x18 + s.toNat))
  | .rstl c f => some (2, f.enc c 0x14)
  | .copy c f => some (3, f.enc c 0x00)
  | .comet c f => some (3, f.enc c 0x01)
  | .seal c f => some (3, f.enc c 0x02)
  | .waitb c f => some (3, f.enc c 0x03)
  | .pref c f => some (3, f.enc c 0x10)
  | .prefList c f => some (3, f.enc c 0x11)
  | .plymatch c f => some (4, f.enc c 0x00)
  | .plymerge c f => some (4, f.enc c 0x01)
  | .plysplit c f => some (4, f.enc c 0x02)
  | .plykeep c f => some (4, f.enc c 0x03)
  | .plyfree c f => some (4, f.enc c 0x04)
  | .mvs c f => some (5, f.enc c 0x00)
  | .evset c f => some (5, f.enc c 0x08)
  | .evclr c f => some (5, f.enc c 0x09)
  | .evwait c f => some (5, f.enc c 0x0A)
  | .launch c f => some (5, f.enc c 0x0B)
  | .kninit c f => some (5, f.enc c 0x10)
  | .knarr c f => some (5, f.enc c 0x11)
  | .knwait c f => some (5, f.enc c 0x12)
  | .skmap c f => some (5, f.enc c 0x18)
  | .skunmap c f => some (5, f.enc c 0x19)
  | .skflush c f => some (5, f.enc c 0x1A)
  | .skflushAll c f => some (5, f.enc c 0x1A)
  | .skquery c f => some (5, f.enc c 0x1B)
  | .deviceReset => none
  | .devFeatAccWrite _ => none
  | .featLock _ => none
  | .ctxCreate _ => none
  | .ctxDestroy _ => none
  | .ctxDestroyComplete _ => none
  | .ctxResRead => none
  | .graphDb _ => none
  | .evHostSet _ => none
  | .evHostClear _ => none
  | .ctxDroppedRead => none
  | .ctxStateRead => none
  | .registerWrite _ _ => none
  | .dirCtlWrite _ _ => none
  | .heatCtlWrite _ _ => none
  | .hclr _ => none
  | .heatClearDone _ => none
  | .heatRead _ _ => none
  | .aliasInfoRead _ => none
  | .fqHeadWrite _ => none
  | .fqReplay _ => none
  | .fqReplayAll _ => none
  | .fqReplayFail _ => none
  | .ctxSuspend => none
  | .ctxResume => none
  | .ctxWb => none
  | .ctxWbDone _ => none
  | .wpLostRead => none
  | .cutReq _ => none
  | .cutRel _ => none
  | .cutReduce _ _ => none
  | .cutComplete _ => none
  | .cutAbort _ => none
  | .lmemBoundWrite _ => none
  | .shootdownRange _ => none
  | .shootdownAll _ => none
  | .shootdownPerform => none
  | .sdStatOvfClear => none
  | .wpCtlWrite _ _ => none
  | .keyLoad _ => none
  | .keyErase _ => none
  | .keyCmdComplete => none
  | .strandWb _ => none
  | .strandDisc _ => none
  | .strandCmdComplete => none
  | .strandTimerExpire => none
  | .fwUpdateGo _ _ => none
  | .fwDieUpdate => none
  | .fwUpdateComplete => none
  | .bootRootStart => none
  | .bootOfferReceived _ => none
  | .bootImageVerified _ _ => none
  | .hostLinkLost _ => none
  | .colrokLinkLost _ => none
  | .ucieLinkFatal => none
  | .corePowerGate _ => none
  | .coreClockChange _ => none
  | .courseForm _ _ => none
  | .clauseEnter _ _ => none
  | .clauseFetch _ _ _ => none
  | .threadOverdue _ _ _ => none
  | .pendingWriteArrive _ _ _ _ => none
  | .signTimeout _ _ _ => none
  | .waitmWake _ _ _ => none
  | .waitmPoll _ _ _ => none
  | .queueWordAccept _ _ _ => none
  | .matrixOpStart _ => none
  | .matrixKblockComplete _ => none
  | .accGrant _ => none
  | .plyOpStart _ => none
  | .plyOpComplete _ => none
  | .plyMapObtain _ _ => none
  | .sweepOpStart _ => none
  | .sweepIteration _ => none
  | .segmentFillComplete _ _ _ => none
  | .copyAccept _ => none
  | .copyChunkComplete _ _ _ => none
  | .cometAccept _ => none
  | .cometBurstRequest _ _ => none
  | .cometBurstLand _ _ _ => none
  | .cometThreadStart _ _ => none
  | .blockEnd _ _ => none
  | .blockPlace _ => none
  | .blockPreempt _ _ => none
  | .blockResume _ _ => none
  | .skidBoundExpire _ _ => none
  | .nodeRead _ _ => none
  | .nodeKernelStart _ _ => none
  | .nodeCond _ => none
  | .nodeWhile _ => none
  | .nodeEvent _ _ => none
  | .nodeHost _ _ => none
  | .nodeEnd _ => none
  | .gridFinish _ _ => none
  | .eventMirrorWrite _ => none
  | .homeRequest _ _ => none
  | .requestRetry _ _ => none
  | .forcedPublish _ _ => none
  | .wideReleaseComplete _ _ => none
  | .hostMemRequest _ => none
  | .hostSnoopResponse _ => none
  | .podRequest _ _ => none
  | .atomicopCompletion _ _ _ => none
  | .translationWalk _ _ => none
  | .faultEntryWrite _ => none
  | .contextHalt _ => none
  | .haltComplete _ => none
  | .segmentWriteBackDone _ _ _ => none
  | .hostPortLinkUp _ => none
  | .colrokLinkUp _ _ => none

/-- The instruction the decoder reads from a clause laid out from bit 0 on: its header doubleword, then its words, the
first of them decoded in the header's class; bits above `nbits` are zero (R8, R61). (DEDUCED, log entry 5.) -/
def decodeTableWord (nbits w : Nat) : Option Instr :=
  let w := w % 2 ^ nbits
  let h := BitVec.ofNat 64 w
  if headerBad h then none
  else match decodeWord (headerOf h).cls (BitVec.ofNat 64 (w / 2 ^ 64)) with
    | .ok i => some i
    | .error _ => none

end Sys2Proof
end

