-- ==== Sys2Proof/Machine/Maps.lean ====
section
/-! DEFINITION. Sparse maps in canonical form (keys strictly rising, no entry equal to the default), and bytes in
little-endian order (R8, R9). -/

namespace Sys2Proof.Machine

open Sys2Proof

/-- What key `i` reads as: its entry, or the default `d`. -/
def mget {α : Type} (d : α) (m : SMap α) (i : Nat) : α :=
  match m with
  | [] => d
  | (k, v) :: r => if k = i then v else mget d r i

/-- Inserts an entry in key order, replacing one of the same key. -/
def minsert {α : Type} (m : SMap α) (i : Nat) (v : α) : SMap α :=
  match m with
  | [] => [(i, v)]
  | (k, w) :: r => if i < k then (i, v) :: (k, w) :: r else if i = k then (i, v) :: r else (k, w) :: minsert r i v

/-- Removes every entry of a key. -/
def merase {α : Type} (m : SMap α) (i : Nat) : SMap α :=
  match m with
  | [] => []
  | (k, w) :: r => if k = i then merase r i else (k, w) :: merase r i

/-- Writes key `i`; writing the default removes the entry, so that equal maps are equal data. -/
def mput {α : Type} [DecidableEq α] (d : α) (m : SMap α) (i : Nat) (v : α) : SMap α :=
  if v = d then merase m i else minsert m i v

/-- Removes every entry with a key in [lo, lo + n). -/
def mclear {α : Type} (m : SMap α) (lo n : Nat) : SMap α := m.filter fun e => !(lo ≤ e.1 && e.1 < lo + n)

/-- Keys are strictly rising from `lo` on and no entry equals the default. -/
def mcanon {α : Type} [DecidableEq α] (d : α) (lo : Nat) (m : SMap α) : Bool :=
  match m with
  | [] => true
  | (k, v) :: r => decide (lo ≤ k) && decide (v ≠ d) && mcanon d (k + 1) r

/-! ### Bytes -/

/-- The `n` bytes of `v`, least significant first (R8). -/
def toBytes (n v : Nat) : List Byte :=
  match n with
  | 0 => []
  | k + 1 => BitVec.ofNat 8 v :: toBytes k (v / 256)

/-- The value of bytes stored least significant first (R8). -/
def ofBytes (l : List Byte) : Nat :=
  match l with
  | [] => 0
  | b :: r => b.toNat + 256 * ofBytes r

/-- Reads `n` entries of a byte map from `a` up. -/
def mreadBytes (m : SMap Byte) (a n : Nat) : List Byte :=
  match n with
  | 0 => []
  | k + 1 => mget 0 m a :: mreadBytes m (a + 1) k

/-- Writes bytes into a byte map from `a` up. -/
def mwriteBytes (m : SMap Byte) (a : Nat) (l : List Byte) : SMap Byte :=
  match l with
  | [] => m
  | b :: r => mwriteBytes (mput 0 m a b) (a + 1) r

/-! ### Memory: the physical bytes of the device, of other pod devices and of the hosts -/

/-- What a byte that nothing has written reads as (DESIGN CHOICE, log entry 1: the spec gives no power-on contents). -/
def Memory.unlisted : Byte := 0

/-- The memory keeps its canonical form. -/
def Memory.wf (m : List Host.Cell) : Bool := mcanon Memory.unlisted 0 m

/-- One byte of memory. (DESIGN CHOICE, log entry 1.) -/
def Memory.byte (m : List Host.Cell) (a : Nat) : Byte := mget Memory.unlisted m a

/-- Writes one byte of memory. -/
def Memory.setByte (m : List Host.Cell) (a : Nat) (b : Byte) : List Host.Cell := mput Memory.unlisted m a b

/-- Writes bytes from `a` up. -/
def Memory.write (m : List Host.Cell) (a : Nat) (l : List Byte) : List Host.Cell := mwriteBytes m a l

/-- Reads `n` bytes from `a` up. -/
def Memory.read (m : List Host.Cell) (a n : Nat) : List Byte := mreadBytes m a n

/-- Makes the `n` bytes from `a` up read as unlisted ones do. -/
def Memory.clear (m : List Host.Cell) (a n : Nat) : List Host.Cell := mclear m a n

/-! ### Integers -/

/-- x read as an n-bit two's complement number (R103, SignExtend). -/
def signExtend (x n : Nat) : Int :=
  let y := x % 2 ^ n
  if 2 * y < 2 ^ n then (y : Int) else (y : Int) - (2 ^ n : Nat)

/-- An integer modulo 2^n. -/
def wrapInt (v : Int) (n : Nat) : Nat := (v % ((2 ^ n : Nat) : Int)).toNat

/-- x clamped to the n-bit signed or unsigned range (R103, SatInt). -/
def satInt (v : Int) (n : Nat) (signed : Bool) : Int :=
  let lo : Int := if signed then -((2 ^ (n - 1) : Nat) : Int) else 0
  let hi : Int := if signed then ((2 ^ (n - 1) : Nat) : Int) - 1 else ((2 ^ n : Nat) : Int) - 1
  if v < lo then lo else if hi < v then hi else v

/-- Bits [lo+len-1:lo] of a number. -/
def bitsOf (x lo len : Nat) : Nat := x / 2 ^ lo % 2 ^ len

/-- Inserts an item before the first that does not precede it. -/
def insertBy {α : Type} (le : α → α → Bool) (x : α) (l : List α) : List α :=
  match l with
  | [] => [x]
  | y :: r => if le x y then x :: y :: r else y :: insertBy le x r

/-- A list sorted by an order, equals keeping their places. -/
def sortBy {α : Type} (le : α → α → Bool) (l : List α) : List α :=
  match l with
  | [] => []
  | x :: r => insertBy le x (sortBy le r)

/-- The number of bits of x. -/
def bitLen (x : Nat) : Nat := if x = 0 then 0 else x.log2 + 1

end Sys2Proof.Machine
end

