-- ==== Sys2Proof/Machine/State.lean ====
section
/-! DEFINITION. The state of the module: everything the spec gives the machine, as plain data, and State.reset. Fields
that are the model's own, and not the spec's, say so. -/

namespace Sys2Proof.Machine

open Sys2Proof

/-! ### Features (R1 to R6) -/

/-- The two parts of the family (R1). -/
inductive Part where
  | g4x | g4h
  deriving DecidableEq, Repr

/-- The part and DEV_FEAT_ACC (R3): bits PLY, FTC, COMET, SPARSE, CXLC, POD from bit 0 up. -/
structure Features where
  part : Part
  acc : BitVec 6
  lock : Bool
  deriving DecidableEq, Repr

/-! ### Threads (R28 to R60) -/

/-- STATE codes 0 to 7 (R39). -/
inductive TState where
  | free | ready | memWatch | knot | event | stitch | results | exited
  deriving DecidableEq, Repr

/-- A pending variable-latency write (R74 to R79): destination registers from the low one up, those whose value a later write
has made dead (R77), and the value once the operation has obtained it. `id` rises in program order. -/
structure Pending where
  id : Nat
  dst : List Nat
  dead : List Nat
  val : Option (List Word)
  deriving DecidableEq, Repr

/-- The comet values of a comet thread (R40, R256); `read` is the read's operation number. -/
structure CometInfo where
  cid : Word
  cbi : Word
  cx : Word
  cy : Word
  cz : Word
  cst : Word
  read : Nat
  deriving DecidableEq, Repr

/-- A WAITM wait (R431): the location, the comparand, where it is watched once a watch is entered, whether a write has been
performed there since, and the fabric cycles left where the watch table had no free entry. -/
structure WatchWait where
  va : DWord
  n : Nat
  cmp : Nat
  order : BitVec 2
  scope : BitVec 2
  at_ : Option Nat
  woken : Bool
  poll : Option Nat
  addr : DWord
  word : DWord
  pos : Nat
  deriving DecidableEq, Repr

/-- What identifies an issued operation: its number (rising in issue order), issuing block and slot, clause address, word and
position (R298, R305), and the accesses it waits for: all of slot `p.1` numbered below `p.2` (R215, R216). -/
structure Origin where
  id : Nat
  blk : Nat
  slot : Nat
  addr : DWord
  word : DWord
  pos : Nat
  after : List (Nat × Nat)
  bound : Option Nat
  deriving DecidableEq, Repr

/-- Operations of the matrix queue (R227, R233). -/
inductive MatKind where
  | mma | mmas | free | zero | rd
  deriving DecidableEq, Repr

/-- An entry of the matrix queue: the tile name, the operand registers as read at issue (R229), the slots. `off` is ACCRD's g[a]. -/
structure MatOp where
  org : Origin
  kind : MatKind
  tile : Nat
  aBase : DWord
  aStride : Word
  aScale : Word
  bBase : DWord
  bStride : Word
  bScale : Word
  k : Word
  aslot : Nat
  bslot : Nat
  zf : Bool
  meta' : DWord
  off : Word
  deriving DecidableEq, Repr

/-- The operation the matrix unit executes: k-progress (R239), core cycles left of the k-block (R228), words of four bytes that an ACCRD has
written (R236). -/
structure MatRun where
  op : MatOp
  j : Nat
  left : Nat
  written : Nat
  deriving DecidableEq, Repr

/-- Sweep words (R425 to R428). -/
inductive SweepKind where
  | add | mul | fma | max | exp | copy | sum | rms | smb
  | spc (t : PruneType)
  | pk (slot : Nat)
  | up (slot : Nat)
  deriving DecidableEq, Repr

/-- A sweep operation: operands as read at issue, next iteration numbered across both passes, kept scalars (R427); `out` holds the writes of the iteration
in progress that have not been performed, at bytes of the window (R161). -/
structure SweepOp where
  org : Origin
  kind : SweepKind
  n : Nat
  d : Word
  a : Word
  b : Word
  sd : BitVec 7
  sa : BitVec 7
  sb : BitVec 7
  sat : Bool
  iter : Nat
  scal : List Word
  out : List (Nat × List Byte)
  deriving DecidableEq, Repr

/-- Ply words (R264). -/
inductive PlyKind where
  | match_ | merge | split | keep | free
  deriving DecidableEq, Repr

/-- An entry of the ply queue: register operands as read at issue. `obtains` says that it waits for a physical map, `got` names the one it has obtained and
not bound (R277). -/
structure PlyOp where
  org : Origin
  kind : PlyKind
  map : Nat
  d : Word
  a : Word
  b : Word
  c : Word
  ty : Nat
  obtains : Bool
  got : Option Nat
  deriving DecidableEq, Repr

/-- An entry of the transfer queue (R246): a copy, or a comet read with its handler, arguments, id and token; `entry` numbers the moment at which it entered the
queue (R458). -/
structure XferOp where
  org : Origin
  comet : Bool
  sh : DWord
  hd : DWord
  kn : Option Word
  args : List Word
  cid : Nat
  pend : Nat
  entry : Nat
  deriving DecidableEq, Repr

/-- A word held for a member because its queue was full, or a SEAL beyond 255 batches (R227, R248). -/
inductive HeldWord where
  | mat (o : MatOp)
  | sweep (o : SweepOp)
  | ply (o : PlyOp)
  | xfer (o : XferOp)
  | seal (pend : Nat) (copies : List Nat)
  deriving DecidableEq, Repr

/-- An unfinished sealed batch (R248): its number, its unfinished copies, the token's pending write. -/
structure Batch where
  num : Nat
  copies : List Nat
  pend : Nat
  deriving DecidableEq, Repr

/-- A thread: what R28 to R30 and the thread status record (R38) give it, its pending writes, waits, batches, age (R58) and hold
in a cut (R309). -/
structure Thread where
  regs : SMap Word
  area : SMap Word
  pred : BitVec 8
  pc : DWord
  stack : List DWord
  step : Word
  st : TState
  yield : Bool
  sgn : BitVec 16
  wst : Nat
  tmo : Option Nat
  signPend : Nat
  pend : List Pending
  parkMark : Bool
  waitB : Option Nat
  held : List HeldWord
  watch : Option WatchWait
  knotW : Option (Nat × Nat)
  evW : Option Nat
  acq : List (Nat × Nat × Nat)
  unsealed : List Nat
  nextBatch : Nat
  batches : List Batch
  age : Nat
  overdueAt : Option Nat
  cutHeld : Bool
  comet : Option CometInfo
  inCourse : Bool
  stopped : Bool
  /-- The thread has made a release at core scope (R211; the model's own mark). -/
  narrowRel : Bool
  deriving DecidableEq, Repr

/-! ### Stitch registers (R37, R51 to R56) -/

/-- A posted operation (R53). -/
inductive Posted where
  | mat (o : MatOp)
  | ply (o : PlyOp)
  | knarr (org : Origin) (off n : Nat)
  deriving DecidableEq, Repr

/-- The operations issued by completions of the register (R53, R66, R227): none yet, some waiting to enter their queue (oldest first),
the number of the one most recently issued. -/
inductive BoundOp where
  | none | waiting (ps : List Posted) | running (id : Nat)
  deriving DecidableEq, Repr

/-- A stitch register: the record of R37, the signers of the open phase with the number of their SIGN, and the bound operation. -/
structure Stitch where
  decl : Bool
  mask : Bool
  cnt : Nat
  base : Nat
  memb : DWord
  setr : Bool
  open_ : Bool
  posted : Option Posted
  count : Nat
  signed : DWord
  signers : List (Nat × Nat)
  poster : Nat
  postPc : DWord
  bound : BoundOp
  deriving DecidableEq, Repr

/-! ### Blocks (R26, R31 to R36) -/

/-- BSTATE (R36). -/
inductive BState where
  | running | preempted | stopped | restarting | exited
  deriving DecidableEq, Repr

/-- A tile name (R232): reserved, or bound to a physical tile. -/
inductive TileName where
  | reserved | bound (phys : Nat)
  deriving DecidableEq, Repr

/-- A ply name (R275). -/
inductive PlyName where
  | free | valid (phys : Nat) (kept : Bool) | saved | lost
  deriving DecidableEq, Repr

/-- A ply map: N, r and the destination of each source token (R271). -/
structure PlyMap where
  n : Nat
  r : Nat
  dest : List Nat
  deriving DecidableEq, Repr

/-- A launch-data item (R290); `loading` is a skein item whose descriptor has been read and has passed its checks (R144, R460). -/
inductive LaunchItem where
  | skein (num : Nat) (argb : Bool) (d0 d1 d2 d3 : DWord)
  | loading (num : Nat) (d0 d1 d2 d3 : DWord)
  | stitch (num : Nat) (memb desc : DWord)
  | restart (label mask : DWord)
  deriving DecidableEq, Repr

/-- The launch record as the walker read it (R289). -/
structure LaunchRec where
  entry : DWord
  args : DWord
  items : List LaunchItem
  gx : Nat
  gy : Nat
  gz : Nat
  affinity : DWord
  slots : List (BitVec 16)
  nthr : Nat
  cres : Nat
  stash : Nat
  amax : Nat
  fairwin : Nat
  plykeep : Bool
  nofair : Bool
  prio : Nat
  lrec : DWord
  deriving DecidableEq, Repr

/-- A block that has been placed: the block header (R36), its launch, window, names, stitch registers and threads by block slot. -/
structure Block where
  id : Nat
  asid : Nat
  launch : Nat
  index : Nat
  rec_ : LaunchRec
  bidx : Word
  bidy : Word
  bidz : Word
  image : Nat
  prio : Nat
  winBase : Nat
  winSize : Nat
  bst : BState
  rstLabel : DWord
  rstMask : DWord
  restarts : Word
  mkp : Word
  tiles : SMap (Option TileName)
  plys : SMap PlyName
  saved : SMap PlyMap
  stitches : SMap Stitch
  threads : SMap Thread
  cometCount : Nat
  todo : List LaunchItem
  started : Bool
  abandoned : Option PlyOp
  /-- Core cycles left of the memory bound since the block was asked to stop, while something of it is still in flight (R307). -/
  skid : Option Nat
  /-- Its image has been written back since it was pre-empted (R33, R34). -/
  imaged : Bool
  /-- A block has come to its core since it left it (R33; the model's own mark). -/
  passed : Bool
  /-- It is asked to leave its core, by placement, a suspension or a firmware update (R295, R308, R336). -/
  asked : Bool
  deriving DecidableEq, Repr

/-! ### Courses, instruction buffer, accesses, translations -/

/-- A course in flight on an issue slot (R43, R44): entered or not yet, its members in slot order, the next word, the next
member for that word, and the core cycle in which the word before it issued. -/
structure Course where
  islot : Nat
  blk : Nat
  addr : DWord
  members : List Nat
  entered : Bool
  pos : Nat
  idx : Nat
  last : Option DWord
  deriving DecidableEq, Repr

/-- A clause in the instruction buffer (R48): header, words (none where the header breaks R63), read-set, tag. -/
structure BufClause where
  asid : Nat
  addr : DWord
  hdr : DWord
  words : List DWord
  reads : List Nat
  deriving DecidableEq, Repr

/-- A line of 128 bytes of the instruction buffer, by address-space identifier and number, with the doublewords it has fetched (R48). Its reference count
is a function of the courses in flight (Core.lineRefs). -/
structure IbufLine where
  asid : Nat
  line : Nat
  data : SMap (Option DWord)
  deriving DecidableEq, Repr

/-- A cached translation (R313): the page's base, its size in bits, the leaf's two doublewords. -/
structure TlbEntry where
  asid : Nat
  page : Nat
  log : Nat
  d0 : DWord
  d1 : DWord
  deriving DecidableEq, Repr

/-- What an outstanding access of a thread does. -/
inductive AccKind where
  | load | store | add | fadd | min | max | and | or | xor | exch | inc | cas | fence | flush
  /-- KNINIT and KNARR as accesses of the thread (R376): stash offset and count. -/
  | knInit | knArr
  /-- EVSET and EVCLR on an event (R360). -/
  | evSet | evClr
  /-- SKMAP, SKUNMAP, SKFLUSH of one entry and of all, SKQUERY (R414 to R417); `v` is the entry. -/
  | skMap | skUnmap | skFlush | skFlushAll | skQuery
  deriving DecidableEq, Repr

/-- Where an outstanding access stands: to be tried, waiting for a walk, waiting for its home, refused with the fabric cycles
left before the retry (R180), waiting for a widened release (R211), at the host as an AtomicOp (R325). -/
inductive AccPhase where
  | new | walk | home | refused (left : Nat) | publish | atomicOp (old : Option Nat)
  deriving DecidableEq, Repr

/-- An outstanding access (R176, R196): number in program order, thread, clause and word, kind, stash offset or virtual address,
size, operands, order, scope, hint, signed type, destination's pending write, refusals met. `leaf` is the translation that a request on its way
carries; `early` numbers the moment at which a store was performed at core scope (R200); `mark` says that a core-scope release precedes it in program
order, or that it is one (R211); `wide` numbers the moment at which a wide release asked the slices for their counts (R214); `half` is the first half
of a .b128 access that has been performed, with the bytes it read (R198); `desc` is the descriptor that an SKMAP has read and checked (R141, R144). -/
structure Access where
  id : Nat
  asid : Nat
  blk : Nat
  slot : Nat
  addr : DWord
  word : DWord
  pos : Nat
  kind : AccKind
  stash : Bool
  va : DWord
  n : Nat
  v : Nat
  cmp : Nat
  ty : Nat
  order : BitVec 2
  scope : BitVec 2
  hint : Nat
  pend : Nat
  phase : AccPhase
  refusals : Nat
  wideDone : Bool
  leaf : Option TlbEntry
  early : Option Nat
  mark : Bool
  wide : Option Nat
  half : Option Nat
  /-- The number at which its miss of the translation cache joined the die's walks (R313). -/
  asked : Nat
  desc : Option (DWord × DWord × DWord × DWord)
  deriving DecidableEq, Repr

/-! ### Skeins (R141 to R160) -/

/-- Segment states (R146). -/
inductive SegState where
  | unfilled | filling | clean | dirty | retiring
  deriving DecidableEq, Repr

/-- A selected word held by a segment: its offset in the core's stash, physical location, class and key of its page, how it is
registered with its home (R149), whether it is dirty and, under write-only, written; `comp` is the block-table entry and the offset in the block of a
word of a compressed page (R189), `cg` the page's grain (R179), `heat` its heat counter where it is under watch (R187). -/
structure SkWord where
  at_ : Nat
  pa : Nat
  cc : Nat
  key : Nat
  owner : Bool
  sharer : Bool
  dirty : Bool
  written : Bool
  comp : Option (Nat × Nat)
  cg : Nat
  heat : Option Nat
  /-- Of a word on its way to its home, the offsets of its poisoned bytes (R296, R327). -/
  bad : List Nat := []
  deriving DecidableEq, Repr

/-- A segment of an entry; `wb` is the write-back data on its way to the home slices with the write-back's number (R152, R155), `flusher` the block whose
SKFLUSH has sent it, which waits for it also where the entry has been attached to another block since (R155). -/
structure Seg where
  st : SegState
  words : List SkWord
  wb : Option (Nat × List (SkWord × List Byte))
  flusher : Option Nat := none
  deriving DecidableEq, Repr

/-- A skein entry that is not Free (R141, R157): the descriptor's fields, its context, the block it is attached to (none:
detached), the stash byte of the core where offset 0 of its window lay, its segments, whether it is being retired or unmapped. -/
structure Skein where
  asid : Nat
  blk : Option Nat
  base : Nat
  stride : Nat
  foff : Nat
  len : Nat
  count : Nat
  soff : Nat
  mode : Nat
  aff : DWord
  win : Nat
  segs : SMap Seg
  leaving : Bool
  deriving DecidableEq, Repr

/-! ### Copies and comets (R240 to R262) -/

/-- A tensor shape record (R240). -/
structure Shape where
  base : Nat
  idx : Nat
  ex : Nat
  ey : Nat
  ez : Nat
  ox : Nat
  oy : Nat
  oz : Nat
  sy : Nat
  sz : Nat
  tx : Nat
  ty : Nat
  tz : Nat
  ifac : Nat
  hkind : Bool
  tkind : Bool
  dir : Bool
  mode : Nat
  elog : Nat
  deriving DecidableEq, Repr

/-- A copy the engine has accepted: its chunks still to do, whether it charged the inbound count (R253), its knot. -/
structure CopyRun where
  org : Origin
  sh : Shape
  hd : Nat
  kn : Option Nat
  inbound : Bool
  chunks : Nat
  left : List Nat
  deriving DecidableEq, Repr

/-- A comet read the path has accepted (R254 to R258): bursts not yet requested, in flight, landed with the landing's number and their data, handlers
started and ended, bursts requested again after a fault. -/
structure CometRun where
  org : Origin
  sh : Shape
  hd : DWord
  args : List Word
  cid : Nat
  pend : Nat
  kn : Option Nat
  entry : Nat
  bursts : Nat
  toRequest : List Nat
  inFlight : List Nat
  /-- Bursts in flight whose reply was a fault: they hold no outstanding request while they are suspended (R176, R262). -/
  faulted : List Nat := []
  landed : List (Nat × Nat × List Byte)
  landings : Nat
  /-- The addresses and leaves of bursts in flight that were translated as they were requested (R262). -/
  leaves : List (Nat × Nat × TlbEntry)
  started : Nat
  ended : Nat
  replayed : List Nat
  /-- Exited handlers' slots with the number below which their accesses lie (R220). -/
  ending : List (Nat × Nat)
  deriving DecidableEq, Repr

/-- A waiting ACCALLOC (R234). -/
structure AccWait where
  id : Nat
  blk : Nat
  slot : Nat
  first : Nat
  n : Nat
  pend : Nat
  deriving DecidableEq, Repr

/-- A prefetch hint that has not been made (R403 to R405): its address, and for PREF.list the shape record's address and the target, and once its record has
been read, the record and the list elements still to come (R259). -/
structure PrefRun where
  org : Origin
  list : Bool
  va : DWord
  n : Nat
  scope : BitVec 2
  hint : Nat
  target : Nat
  left : Option (Shape × List Nat)
  deriving DecidableEq, Repr

/-! ### Cores -/

/-- A requester of a home slice: its core, its unit (0: an outstanding access of a thread, 7: a prefetch hint, else 8 plus the engine code), the number of
the access or hint, or the slot, clause address and INFO0 and INFO1 of the operation. -/
structure Requester where
  core : Nat
  unit : Nat
  asid : Nat
  id : Nat
  deriving DecidableEq, Repr

/-- A byte that L1, or a slice of another die, holds (R173, R174): its value, the key index and class of its page, whether it is dirty, and for a
coherent page whether the directory has granted the core ownership of its grain (R179). -/
structure L1Byte where
  b : Byte
  key : Nat
  cc : Nat
  dirty : Bool
  own : Bool
  deriving DecidableEq, Repr

/-- A core (R18): counter, stash bytes, skein entries, accumulator tiles (element r·64+c), ply maps, queues and units,
accesses, translations, L1 bytes, instruction buffer, courses, clock cycles each issue slot is still held. -/
structure Core where
  cyc : DWord
  stash : SMap Byte
  skeins : SMap (Option Skein)
  tiles : SMap (SMap Word)
  tileUndef : SMap (Option Nat)
  tileUse : SMap (Option (Nat × Nat))
  plyStore : SMap (Option PlyMap)
  blocks : List Block
  matQ : List MatOp
  matRun : Option MatRun
  accWaits : List AccWait
  sweepQ : List SweepOp
  sweepRun : Option SweepOp
  sweepAside : List SweepOp
  plyQ : List PlyOp
  plyRun : Option PlyOp
  xferQ : List XferOp
  copies : List CopyRun
  comets : List CometRun
  /-- The comet read that was served a burst last (R255). -/
  cometTurn : Nat
  prefs : List PrefRun
  accs : List Access
  /-- The outstanding requests that operations of the core's engines hold while they wait, and hints (R19, R176): whose, how many. -/
  out : List (Requester × Nat)
  /-- Misses of the translation cache by its engines that wait for a walk: the number at which each joined, the address space, the 4 KiB page (R313). -/
  missed : List (Nat × Nat × Nat)
  tlb : List TlbEntry
  l1 : SMap (Option L1Byte)
  /-- Lines of 128 bytes that a hint has marked first to evict from L1 (R403). -/
  strm : List Nat := []
  ibuf : List BufClause
  lines : List IbufLine
  courses : List Course
  hold : SMap Nat
  /-- Priority, launch and index of the block that took an issue slot's last overdue turn (R58). -/
  turn : SMap (Option (Nat × Nat × Nat))
  gated : Bool
  deriving DecidableEq, Repr

/-! ### Contexts (R280 to R292, R296 to R319) -/

/-- Node kinds (R285). -/
inductive NodeKind where
  | kernel | cond | while_ | event | host | end_
  deriving DecidableEq, Repr

/-- A task-graph node as the walker read it (R284). -/
structure Node where
  addr : DWord
  kind : NodeKind
  cons : Bool
  async : Bool
  next : Nat
  opa : Nat
  opb : Nat
  param : Nat
  wait : BitVec 256
  set : BitVec 256
  deriving DecidableEq, Repr

/-- An entry of the device chain, with the launching thread and the number of its LAUNCH (R292). -/
structure DevNode where
  addr : DWord
  core : Nat
  blk : Nat
  slot : Nat
  id : Nat
  /-- What the thread had acquired by its wakes when it launched: of each slot of its block the accesses numbered below a number (R208, R216). -/
  acq : List (Nat × Nat) := []
  deriving DecidableEq, Repr

/-- One of the walker's two chains (R286): the current node's address (none: no chain), its KIND field once it has been read (R306), the node once it has
passed its checks, whether it has started, and whether the launch of a started KERNEL node has begun; `behind`: the other chain's node had started before it and
not begun its launch (R286, R291). -/
structure Chain where
  cur : Option DWord
  kind : Option Nat
  node : Option Node
  started : Bool
  begun : Bool
  behind : Bool
  deriving DecidableEq, Repr

/-- A launch (R291): its sequence, context, node's SET mask and chain, record, next block to place, blocks that have finished. -/
structure Launch where
  seq : Nat
  asid : Nat
  set : BitVec 256
  dev : Bool
  async : Bool
  rec_ : LaunchRec
  prio : Nat
  nextBlock : Nat
  ended : Nat
  /-- The cores on which a block of the launch has been placed (R50). -/
  cores : List Nat
  deriving DecidableEq, Repr

/-- The engines of a fault entry, codes 0 to 7 (R298). -/
inductive Engine where
  | simt | matrix | sweep | copy | comet | ply | walker | fetch
  deriving DecidableEq, Repr

/-- What a fault suspended and a replay resumes (R302). -/
inductive Susp where
  | access (core id : Nat)
  | fetch (core blk slot : Nat) (addr : DWord)
  | watch (core blk slot : Nat)
  | matrix (core id : Nat)
  | sweep (core id : Nat)
  | ply (core id : Nat)
  | xfer (core id : Nat)
  | chunk (core copy chunk : Nat)
  | burst (core comet burst : Nat)
  | walker (dev : Bool)
  | argument (core blk : Nat)
  deriving DecidableEq, Repr

/-- A fault before its entry is written (R298): cause and the fields of the entry, the operation a replayable one suspends. -/
structure FaultInfo where
  cause : Nat
  engine : Engine
  nr : Bool
  core : Nat
  slot : Nat
  va : DWord
  addr : DWord
  word : DWord
  info0 : Word
  info1 : Word
  pa : Nat
  field : Nat
  wr : Bool
  alias_ : Bool
  cyc : DWord
  /-- The word's position, which TRAP and BRK do not show in INFO0 (R299, R306). -/
  pos : Word
  susp : Option Susp
  /-- The number of the operation or access that took it (the model's own: two operations of blocks in the same slots may show the same fields). -/
  op : Nat := 0
  deriving DecidableEq, Repr

/-- A suspended operation whose entry has been written (R302). -/
structure Tagged where
  tag : Nat
  info : FaultInfo
  deriving DecidableEq, Repr

/-- CTX_STATE.STATE (R281). -/
inductive CState where
  | none | running | idle | halted | destroying
  deriving DecidableEq, Repr

/-- CUT_STAT.STATE (R301). -/
inductive CutState where
  | idle | running | complete | aborted
  deriving DecidableEq, Repr

/-- The consistent cut of a context (R309 to R311): state, CUT_CTL's LIMIT and POD, CUT_STAT.M, the target, fabric cycles since REQ, and whether the pod
group's last reduction has confirmed the target (R310, R330). -/
structure Cut where
  st : CutState
  limit : Nat
  pod : Bool
  m : Word
  target : Word
  elapsed : Nat
  agreed : Bool
  deriving DecidableEq, Repr

/-- A watchpoint (R316). -/
structure Watchpoint where
  pa : DWord
  en : Bool
  halt : Bool
  sz : Nat
  deriving DecidableEq, Repr

/-- A halt (R303, R305): the fault that raised it, all non-replayable faults raised (none where CTX_DESTROY halted the context), whether a fabric
cycle has passed since it was raised, whether the stop records are written, whether it is complete. -/
structure Halt where
  primary : FaultInfo
  faults : List FaultInfo
  settled : Bool
  skidded : Bool
  done : Bool
  deriving DecidableEq, Repr

/-- A context (R280). -/
structure Context where
  asid : Nat
  pmask : BitVec 4
  pcap : Nat
  pool : Nat
  imgn : Nat
  stat : Nat
  st : CState
  main : Chain
  dev : Chain
  heads : List DWord
  devQ : List DevNode
  events : BitVec 256
  mirror : BitVec 256
  dropped : Nat
  dbovf : Bool
  fqHead : BitVec 9
  fqTail : BitVec 9
  waiting : List FaultInfo
  tagged : List Tagged
  nextTag : Nat
  halt : Option Halt
  susp : Bool
  wb : Bool
  wpLost : Nat
  cut : Cut
  wps : SMap Watchpoint
  deriving DecidableEq, Repr

/-! ### The memory system (R165 to R195) -/

/-- An agent outside the cores that sends requests to home slices (R23, R196, R319): a host port, a pod device, a service hart. -/
inductive OutsideAgent where
  | host (port : Nat) | pod (dev : Nat) | hart (n : Nat)
  deriving DecidableEq, Repr

/-- A block resident in L2 (R174, R183): the class and key index it was allocated under, the bytes not yet written to memory, its valid sectors, its stranded lines of 128 bytes with their keys (R327) and the port or link that stranded them,
the lines that a hint has marked first to evict and to be retained (R403). -/
structure L2Block where
  cls : Nat
  asid : Nat
  key : Nat
  sectors : List Nat
  data : SMap (Option Byte)
  stranded : List (Nat × Nat)
  port : Nat
  strm : List Nat
  keep : List Nat
  deriving DecidableEq, Repr

/-- The memory-control block of a die (R186), its heat table, the slices' miss sequences (R187). -/
structure DieCtl where
  aliasf : Bool
  refmax : Nat
  hclr : Bool
  on : Bool
  kexp : Nat
  aliasPa : DWord
  aliasValid : Bool
  aliasLost : Nat
  aliasAsid : Nat
  aliasOld : Nat
  aliasNew : Nat
  heat : SMap Nat
  /-- The increments of this fabric cycle (R188). -/
  heatNew : SMap Nat
  missSeq : SMap Nat
  placing : Bool
  deriving DecidableEq, Repr

/-- A starving requester's claim on the grain of a location, in the order in which they are served (R181); `fresh` in the fabric cycle in which it
arrived. -/
structure Claim where
  loc : Nat
  req : Requester
  fresh : Bool
  deriving DecidableEq, Repr

/-- An engine's request that a home slice has refused: how often, and the fabric cycles left before its retry (R180). -/
structure Refused where
  req : Requester
  loc : Nat
  count : Nat
  left : Nat
  deriving DecidableEq, Repr

/-- An outside agent's request that waits at its home slice (R152, R182): `id` numbers its arrival, `late` is the starving requester for which its grain was
reserved when it arrived. -/
structure OutsideReq where
  id : Nat
  agent : OutsideAgent
  loc : Nat
  n : Nat
  op : AgentOp
  late : Option Requester
  deriving DecidableEq, Repr

/-- The home slices: the transactions in flight on grains, the starving requesters, the engines' refused requests (R180, R181), the outside requests in
arrival order (R182), and the cores that a forced publish has been sent to, each with the number below which its writes are published (R211). -/
structure HomeState where
  busy : List Nat
  claims : List Claim
  refused : List Refused
  outside : List OutsideReq
  forced : List (Nat × Nat)
  deriving DecidableEq, Repr

/-! ### Host interface, pod, boot (R281, R301, R320 to R336) -/

/-- A write of one of the four registers that wait for the lock (R5). -/
inductive HeldWrite where
  | ctxCreate (v : DWord) | ctxDestroy (v : DWord) | graphDb (v : DWord) | evHost (v : DWord)
  deriving DecidableEq, Repr

/-- A queued shootdown (R315). -/
structure Shootdown where
  asid : Nat
  all : Bool
  va : Nat
  npg : Nat
  deriving DecidableEq, Repr

/-- Link states of HP_STAT and CR_STAT (R332). -/
inductive LinkState where
  | down | training | up
  deriving DecidableEq, Repr

/-- A Colrok link: CR_STAT (R332). -/
structure Link where
  st : LinkState
  peer : Nat
  deriving DecidableEq, Repr

/-- Boot progress of the device (R334, R335): waiting for an offer, fetching and verifying from a parent (retries left),
running, in recovery. -/
inductive Boot where
  | waiting | verifying (parent : Option Nat) (retries : Nat) | running | recovery
  deriving DecidableEq, Repr

/-- A live update (R336): version staged, the next die. -/
structure Update where
  version : Word
  die : Nat
  deriving DecidableEq, Repr

/-- Management registers that have no home above. -/
structure Mgmt where
  ctxResValid : Bool
  ctxResCode : Nat
  ctxResAsid : Nat
  ctxSel : Nat
  lmem : Nat
  ttBase : DWord
  sdVa : DWord
  sdQueue : List Shootdown
  sdOvf : Bool
  sdDone : Word
  intVec : DWord
  keyData : BitVec 512
  keyBusy : Bool
  keyCmd : Option (Bool × Nat)
  keys : SMap (Option (BitVec 512))
  /-- What an index held when its key was erased: lines cached under it are written back under that key (R195, R333). -/
  erased : SMap (Option (BitVec 512))
  strandPort : Bool
  strandLinks : Bool
  strandLnk : Nat
  strandBusy : Option Bool
  /-- The port or link that the WB or DISC in progress acts on (R328). -/
  strandAt : Nat
  strandTimer : Bool
  strandExpired : Bool
  port0 : LinkState
  port1 : LinkState
  podSet : Bool
  podDev : Nat
  /-- ROUTE entries with V = 1: their link. -/
  routes : SMap (Option Nat)
  /-- LNK of the entries with V = 0 (R332). -/
  routeLnk : SMap Nat
  /-- Entries whose link has been lost since they were last written (R331). -/
  routesLost : List Nat
  links : SMap Link
  fwVer : Word
  /-- Version of the image in the device's own flash (R334, R336). -/
  flash : Word
  /-- What checking that image's signatures finds, as FW_STAT.CODE (R335). -/
  flashCode : Nat
  fwImg : DWord
  fwBusy : Option Update
  fwDone : BitVec 4
  fwCode : Nat
  boot : Boot
  bootRoot : Bool
  /-- The parent link of the boot tree (R330, R334), the next number this device assigns, its children: link, first number, how many; the links on which
  it has offered the image; the codes it has reported to its parent (R335). -/
  bootParent : Option Nat
  bootNext : Nat
  /-- The end of the block of numbers that its parent has handed down to this device (R334). -/
  bootLimit : Nat
  children : List (Nat × Nat × Nat)
  offers : List Nat
  reports : List Nat
  coreMhz : Nat
  /-- What the host's last register read answered (the model's own field: it shows what a read returns; DESIGN CHOICE, log entry 11). -/
  readBack : DWord
  /-- The bytes that the last answered request of an outside agent returned (the model's own field; DESIGN CHOICE, log entry 11). -/
  reply : List Byte
  /-- Requests that this device has forwarded between other pod devices: the link, the requesting device, the request, oldest first (R329). -/
  forwarded : List (Nat × Nat × AgentRequest)
  /-- Requests of other pod devices that this device has answered with "link lost", its route leading nowhere, oldest first (R329). -/
  linkLost : List (Nat × AgentRequest)
  /-- Pod numbers for which an intermediate device on the path answers "link lost" (R329). -/
  pathLost : List Nat
  /-- Messages sent to the hosts: port, vector, oldest first (R288, R332). -/
  msi : List (Nat × Nat)
  deriving DecidableEq, Repr

/-! ### The whole machine -/

/-- A member of a course as a word issues to it (the model's own: it says for whom `exec` runs a word). -/
structure Cursor where
  core : Nat
  blk : Nat
  slot : Nat
  islot : Nat
  addr : DWord
  hdr : DWord
  word : DWord
  pos : Nat
  ext : Option Word
  deriving DecidableEq, Repr

/-- Which agent moves next (the model's own): the machine's order of agents, which the spec leaves open, is plain data.
(DESIGN CHOICE, log entry 3.) -/
inductive Move where
  /-- A device step or a host action happens. -/
  | event (i : Instr)
  /-- An issue slot of a core issues its course's next word to the next member. -/
  | issue (core islot : Nat)
  /-- One core cycle passes on a core (R12, R42). -/
  | coreCycle (core : Nat)
  /-- One fabric cycle passes (R12). -/
  | fabricCycle
  /-- L1 of a core evicts a 128-byte line, L2 a 512-byte block, a core's translation cache a page (replacement is left open). -/
  | evictL1 (core line : Nat)
  | evictL2 (block : Nat)
  /-- A slice of another die gives up its copies of a 512-byte block. -/
  | evictFar (die block : Nat)
  | evictTlb (core asid page : Nat)
  /-- A transaction starts or ends being in flight on a grain at its home (R180). -/
  | grainBusy (pa : Nat)
  | grainIdle (pa : Nat)
  /-- The owner of memory outside the device (a host, another pod device) writes its own memory, or performs an atomic on it. -/
  | outsideWrite (pa : Nat) (b : Byte)
  | outsideAtomic (pa size : Nat) (op : AgentOp)
  /-- A service hart reads or writes memory (R23). -/
  | hart (n : Nat) (r : AgentRequest)
  /-- A host reads a register of BAR0 whose read has no effect (R10). -/
  | registerRead (off : Nat)
  /-- The instruction buffer of a core evicts a line that no course uses (R48). -/
  | evictLine (core asid line : Nat)
  /-- Lines of an incoming block displace those of a block that is away from its core (R33). -/
  | displace (core blk : Nat)
  /-- A Colrok link, or a host port, starts training (R332, R334). -/
  | linkTrains (link : Nat)
  | portTrains (port : Nat)
  /-- The device across a link takes this device as its parent; a run of `n` numbers is handed down to it (R334). -/
  | bootChild (link n : Nat)
  /-- The device across a link has been assigned a number (R332, R334). -/
  | peerNumber (link n : Nat)
  /-- A link on the path to another pod device, beyond this device's own, fails or comes up again (R329). -/
  | podPath (dev : Nat) (up : Bool)
  /-- Data at a physical address is marked poisoned by an uncorrectable error (R296). -/
  | poison (pa : Nat)
  /-- A watch table gains or loses its last free entry (R431). -/
  | watchTable (full : Bool)
  deriving DecidableEq, Repr

/-- Everything but the features: memory, cores by number, contexts, launches, management state. -/
structure Dev where
  mem : List Host.Cell
  poisoned : List Nat
  l2 : SMap (Option L2Block)
  /-- Clean copies of coherent, private and read-shared lines in slices of another die than their home's, by die · 2^64 + location (R174). -/
  far : SMap (Option L1Byte)
  home : HomeState
  /-- 512-byte blocks of device memory of which the host may hold a copy (R322). -/
  hostHeld : List Nat
  /-- Blocks of 512 bytes of this device's memory of which another pod device may hold a copy in its slice, by pod number (R330). -/
  podHeld : List (Nat × Nat)
  /-- Recalls of such copies that have been sent, oldest first (R330). -/
  podRecalls : List (Nat × Nat)
  /-- Blocks of 512 bytes of this device's memory that another pod device's slice owns, by pod number, and whether the recall has been sent (R330). -/
  podOwned : List (Nat × Nat × Bool) := []
  /-- Blocks of 512 bytes of other pod devices' memory that slices of this device own: what they hold dirty (R174, R330). -/
  podOwns : List Nat := []
  /-- Requests for ownership that slices of this device have sent to the owners of pod memory, oldest first: pod number, block (R330). -/
  podAsks : List (Nat × Nat) := []
  /-- The grain of the live state of a 512-byte block of coherent memory (R179). -/
  grains : SMap (Option Nat) := []
  /-- Blocks for which a back-invalidate snoop awaits the host's answer (R322). -/
  snoops : List Nat
  /-- Bytes last written by a core's write at or after a core-scope release: the core and the write's number (R211). -/
  marks : SMap (Option (Nat × Nat))
  watchFull : Bool
  dies : SMap DieCtl
  cores : SMap Core
  ctxs : SMap (Option Context)
  launches : List Launch
  nextLaunch : Nat
  /-- Writes of the four registers of R5 that have not been serviced, in arrival order, each with the number of its arrival. -/
  heldWrites : List (HeldWrite × Nat)
  mgmt : Mgmt
  /-- Numbers operations in issue order (the model's own). -/
  nextId : Nat
  /-- Counts the undefined values taken (the model's own, see Config.freeWord; DESIGN CHOICE, log entry 8). -/
  freeCtr : Nat
  cur : Option Cursor
  /-- Which agent moves next (the model's own; DESIGN CHOICE, log entry 3). -/
  moves : List Move
  deriving DecidableEq, Repr

/-- The state of the module. -/
structure State where
  feat : Features
  m : Dev
  deriving DecidableEq, Repr

/-- Why the model stops. Every fault of the device itself is a next state (a fault entry, a halt), so these are the model's own. -/
inductive Fault where
  /-- An instruction word was run with no course member it could run for (`cur` names none); safe: no device does that. -/
  | noMember
  deriving DecidableEq, Repr

/-- Why the model gives no meaning. -/
inductive Refusal where
  /-- The instruction has no meaning in the model yet; safe. -/
  | notModelled (mnemonic : String)
  deriving DecidableEq, Repr

/-! ### Reset -/

namespace Fresh

/-- A stitch register at the launch of a block that declares nothing for it (R37). -/
def stitch : Stitch :=
  { decl := false, mask := false, cnt := 0, base := 0, memb := 0, setr := false, open_ := false, posted := none, count := 0,
    signed := 0, signers := [], poster := 0, postPc := 0, bound := .none }

/-- A free thread slot (R38, R39). -/
def thread : Thread :=
  { regs := [], area := [], pred := 0x80, pc := 0, stack := [], step := 0, st := .free, yield := false, sgn := 0, wst := 0, tmo := none,
    signPend := 0, pend := [], parkMark := false, waitB := none, held := [], watch := none, knotW := none, evW := none, acq := [],
    unsealed := [], nextBatch := 0, batches := [], age := 0, overdueAt := none, cutHeld := false, comet := none, inCourse := false,
    stopped := false, narrowRel := false }

/-- A core at device reset: sr.cyc 0 (R42), empty queues and stores. (DESIGN CHOICE, log entry 7.) -/
def core : Core :=
  { cyc := 0, stash := [], skeins := [], tiles := [], tileUndef := [], tileUse := [], plyStore := [], blocks := [], matQ := [],
    matRun := none, accWaits := [], sweepQ := [], sweepRun := none, sweepAside := [], plyQ := [], plyRun := none, xferQ := [],
    copies := [], comets := [], cometTurn := 0, prefs := [], accs := [], out := [], missed := [], tlb := [], l1 := [], ibuf := [], lines := [], courses := [], hold := [], turn := [],
    gated := false }

/-- A die's memory-control block at reset (R186): REFMAX 0x040, the rest 0. -/
def dieCtl : DieCtl :=
  { aliasf := false, refmax := 0x40, hclr := false, on := false, kexp := 0, aliasPa := 0, aliasValid := false, aliasLost := 0,
    aliasAsid := 0, aliasOld := 0, aliasNew := 0, heat := [], heatNew := [], missSeq := [], placing := true }

/-- A watchpoint at reset (R301). -/
def wp : Watchpoint := { pa := 0, en := false, halt := false, sz := 0 }

/-- A chain with no current node. -/
def chain : Chain := { cur := none, kind := none, node := none, started := false, begun := false, behind := false }

/-- CUT_CTL and CUT_STAT at reset (R301). -/
def cut : Cut := { st := .idle, limit := 0, pod := false, m := 0, target := 0, elapsed := 0, agreed := false }

/-- A Colrok link at reset (R332). -/
def link : Link := { st := .down, peer := 0 }

/-- The management registers at reset (R281, R301, R332). FW_VER has no reset value (DESIGN CHOICE, log entry 4). -/
def mgmt : Mgmt :=
  { ctxResValid := false, ctxResCode := 0, ctxResAsid := 0, ctxSel := 0, lmem := 0x0FA0, ttBase := 0, sdVa := 0, sdQueue := [],
    sdOvf := false, sdDone := 0, intVec := 0, keyData := 0, keyBusy := false, keyCmd := none, keys := [], erased := [], strandPort := false,
    strandLinks := false, strandLnk := 0, strandBusy := none, strandAt := 0, strandTimer := false, strandExpired := false, port0 := .down,
    port1 := .down, podSet := false, podDev := 0, routes := [], routeLnk := [], routesLost := [], links := [], fwVer := 0, flash := 0, flashCode := 0, fwImg := 0, fwBusy := none, fwDone := 0,
    fwCode := 0, boot := .waiting, bootRoot := true, bootParent := none, bootNext := 0, bootLimit := 0, children := [], offers := [], reports := [], coreMhz := 1400, readBack := 0, reply := [], forwarded := [], linkLost := [], pathLost := [], msi := [] }

/-- The machine at device reset. (DESIGN CHOICE, log entry 7.) -/
def machine : Dev :=
  { mem := [], poisoned := [], l2 := [], far := [], home := { busy := [], claims := [], refused := [], outside := [], forced := [] }, hostHeld := [], podHeld := [], podRecalls := [], snoops := [], marks := [], watchFull := false, dies := [],
    cores := [], ctxs := [], launches := [], nextLaunch := 0, heldWrites := [], mgmt := mgmt, nextId := 0, freeCtr := 0, cur := none,
    moves := [] }

/-- DEV_FEAT_ACC at reset (R3), on a G4X (DESIGN CHOICE, log entry 2). -/
def features : Features := { part := .g4x, acc := 0, lock := false }

end Fresh

/-- The module right after device reset. (DESIGN CHOICE, log entry 2.) -/
def State.reset : State := { feat := Fresh.features, m := Fresh.machine }

end Sys2Proof.Machine
end

