-- ==== Sys2Proof/Machine/Ops.lean ====
section
/-! DEFINITION. The named operations on the state: reaching cores, blocks, threads and contexts; registers and pending writes
(R74 to R79); leaving a clause (R71, R78); raising a fault (R296 to R303); how a word and a device step run. -/

namespace Sys2Proof.Machine

open Sys2Proof

/-! ### Reaching the parts of the machine -/

/-- The core numbered `i`. -/
def Dev.core (m : Dev) (i : Nat) : Core := mget Fresh.core m.cores i

/-- Replaces a core. -/
def Dev.setCore (m : Dev) (i : Nat) (c : Core) : Dev := { m with cores := mput Fresh.core m.cores i c }

/-- Changes a core. -/
def Dev.modCore (m : Dev) (i : Nat) (f : Core → Core) : Dev := m.setCore i (f (m.core i))

/-- A block of a core by its identity. -/
def Core.block (c : Core) (b : Nat) : Option Block := c.blocks.find? fun x => x.id == b

/-- Changes a block of a core. -/
def Core.modBlock (c : Core) (b : Nat) (f : Block → Block) : Core :=
  { c with blocks := c.blocks.map fun x => if x.id == b then f x else x }

/-- A block of the machine. -/
def Dev.block (m : Dev) (core b : Nat) : Option Block := (m.core core).block b

/-- Changes a block of the machine. -/
def Dev.modBlock (m : Dev) (core b : Nat) (f : Block → Block) : Dev := m.modCore core fun c => c.modBlock b f

/-- The thread in a block slot. -/
def Block.thread (b : Block) (slot : Nat) : Thread := mget Fresh.thread b.threads slot

/-- Changes the thread in a block slot. -/
def Block.modThread (b : Block) (slot : Nat) (f : Thread → Thread) : Block :=
  { b with threads := mput Fresh.thread b.threads slot (f (b.thread slot)) }

/-- A thread of the machine: none where its block is not on the core. -/
def Dev.thread (m : Dev) (core b slot : Nat) : Option Thread := (m.block core b).map fun x => x.thread slot

/-- Changes a thread of the machine. -/
def Dev.modThread (m : Dev) (core b slot : Nat) (f : Thread → Thread) : Dev :=
  m.modBlock core b fun x => x.modThread slot f

/-- A context that exists. -/
def Dev.ctx (m : Dev) (asid : Nat) : Option Context := mget none m.ctxs asid

/-- Changes a context that exists. -/
def Dev.modCtx (m : Dev) (asid : Nat) (f : Context → Context) : Dev :=
  { m with ctxs := mput none m.ctxs asid ((m.ctx asid).map f) }

/-- The memory-control block of a die. -/
def Dev.die (m : Dev) (d : Nat) : DieCtl := mget Fresh.dieCtl m.dies d

/-- Changes the memory-control block of a die. -/
def Dev.modDie (m : Dev) (d : Nat) (f : DieCtl → DieCtl) : Dev :=
  { m with dies := mput Fresh.dieCtl m.dies d (f (m.die d)) }

/-- Changes the management registers. -/
def Dev.modMgmt (m : Dev) (f : Mgmt → Mgmt) : Dev := { m with mgmt := f m.mgmt }

/-- The host sees an MSI-X message at a port and vector packed as INT_VEC packs them (R288, R332): port in bit 11. -/
def Dev.interrupt (m : Dev) (v : Nat) : Dev := m.modMgmt fun g => { g with msi := g.msi ++ [(bitsOf v 11 1, bitsOf v 0 11)] }

/-! ### The parts of the family (R1, R17) -/

/-- Cores of a die (R1). -/
def Features.coresPerDie (ft : Features) : Nat := match ft.part with | .g4x => 64 | .g4h => 56

/-- Enabled cores (R1). -/
def Features.coreCount (ft : Features) : Nat := 4 * ft.coresPerDie

/-- The die of a core (R17). -/
def Features.dieOf (ft : Features) (core : Nat) : Nat := core / ft.coresPerDie

/-- The bytes homed on one die (R21). -/
def Features.dieSpan (ft : Features) : Nat := match ft.part with | .g4x => 192 * 2 ^ 30 | .g4h => 128 * 2 ^ 30

/-- Colrok links of the part (R1). -/
def Features.links (ft : Features) : Nat := match ft.part with | .g4x => 16 | .g4h => 8

/-- DEV_FEAT_SUP (R2). -/
def Features.sup (ft : Features) : BitVec 6 := match ft.part with | .g4x => 0x3F | .g4h => 0x3C

/-- A feature is accepted, by bit (R3, R6): PLY 0, FTC 1, COMET 2, SPARSE 3, CXLC 4, POD 5. -/
def Features.has (ft : Features) (bit : Nat) : Bool := ft.acc.getLsbD bit

/-! ### Registers and predicates -/

/-- g[i] (R9). -/
def Thread.reg (t : Thread) (i : Nat) : Word := mget 0 t.regs i

/-- Pair(i) (R103). -/
def Thread.pair (t : Thread) (i : Nat) : DWord := t.reg (i + 1) ++ t.reg i

/-- Quad(i) (R103). -/
def Thread.quad (t : Thread) (i : Nat) : BitVec 128 := t.pair (i + 2) ++ t.pair i

/-- A later write to register `i` makes the earlier pending ones dead for it (R77). (DEDUCED, log entry 15.) -/
def Pending.kill (i : Nat) (p : Pending) : Pending := if p.dst.contains i then { p with dead := i :: p.dead } else p

/-- Stores a register without touching pending writes. -/
def Thread.putReg (t : Thread) (i : Nat) (v : Word) : Thread := { t with regs := mput 0 t.regs i v }

/-- A fixed-latency write of g[i]: it takes effect at once and overtakes the pending writes of the register (R74, R77). -/
def Thread.setReg (t : Thread) (i : Nat) (v : Word) : Thread :=
  { t with regs := mput 0 t.regs i v, pend := t.pend.map (Pending.kill i) }

/-- SetPair (R103). -/
def Thread.setPair (t : Thread) (i : Nat) (v : DWord) : Thread :=
  (t.setReg i (v.extractLsb' 0 32)).setReg (i + 1) (v.extractLsb' 32 32)

/-- SetQuad (R103). -/
def Thread.setQuad (t : Thread) (i : Nat) (v : BitVec 128) : Thread :=
  (t.setPair i (v.extractLsb' 0 64)).setPair (i + 2) (v.extractLsb' 64 64)

/-- p[i]; p7 reads as true (R29). -/
def Thread.getPred (t : Thread) (i : Nat) : Bool := i == 7 || t.pred.getLsbD i

/-- Writes p[i]; a write of p7 is discarded (R29). -/
def Thread.setPred (t : Thread) (i : Nat) (v : Bool) : Thread :=
  if 7 ≤ i then t
  else { t with pred := if v then t.pred ||| BitVec.ofNat 8 (2 ^ i) else t.pred &&& ~~~BitVec.ofNat 8 (2 ^ i) }

/-- The guard of a word (R69). -/
def Thread.guard (t : Thread) (c : Ctl) : Bool := t.getPred (c.guard.toNat % 8) != c.guard.getLsbD 3

/-! ### Pending writes -/

/-- A register with a pending variable-latency write (R74). -/
def Thread.isPending (t : Thread) (i : Nat) : Bool := t.pend.any fun p => p.dst.contains i

/-- Opens a pending write (R74). -/
def Thread.addPend (t : Thread) (id : Nat) (dst : List Nat) : Thread :=
  { t with pend := t.pend ++ [{ id := id, dst := dst, dead := [], val := none }] }

/-- The operation of a pending write has obtained its value. -/
def Thread.obtain (t : Thread) (id : Nat) (v : List Word) : Thread :=
  { t with pend := t.pend.map fun p => if p.id == id then { p with val := some v } else p }

/-- Registers of a pending write with their values, without the dead ones (R77). -/
def Pending.live (p : Pending) (v : List Word) : List (Nat × Word) := (p.dst.zip v).filter fun e => !p.dead.contains e.1

/-- The value of a pending write arrives: its live registers are written, and earlier pending writes of the same registers are dead
for them from now on (R76, R77). (DEDUCED, log entry 15.) -/
def Thread.arrive (t : Thread) (p : Pending) (v : List Word) : Thread :=
  let t1 := { t with pend := (t.pend.filter fun q => q.id != p.id).map fun q =>
    if q.id < p.id then { q with dead := p.dst.filter (fun i => q.dst.contains i) ++ q.dead } else q }
  (p.live v).foldl (fun x e => x.putReg e.1 e.2) t1

/-- A thread whose park by the marker or by a wait ends: to STATE 6 while it is marked and results are owed, or words of it are held,
or WAITB waits, else to STATE 1 (R71, R78, R227, R249). -/
def Thread.settle (t : Thread) : Thread :=
  if (t.parkMark && !t.pend.isEmpty) || !t.held.isEmpty || t.waitB.any (fun n => n < t.batches.length) then { t with st := .results }
  else { t with st := .ready, parkMark := false, waitB := none }

/-- The wait of a parked thread ends; where its block is away from its core, the park marker holds it no longer (R71, R308). (DEDUCED, log entry 58.) -/
def Thread.endWait (t : Thread) (away : Bool) : Thread := (if away then { t with parkMark := false } else t).settle

/-- The pending write `id` arrives where its value is there, and the park marker may release (R77, R78). -/
def Thread.arriveId (t : Thread) (id : Nat) : Thread :=
  match t.pend.find? fun p => p.id == id with
  | some { val := some v, id := i, dst := d, dead := x } =>
    let t1 := t.arrive { id := i, dst := d, dead := x, val := some v } v
    if t1.st == .results then t1.settle else t1
  | _ => t

/-! ### Leaving a clause -/

/-- The clause after a clause (R61, R62): its address. -/
def nextClause (addr hdr : DWord) : DWord := addr + BitVec.ofNat 64 (8 * ((headerOf hdr).count + 1))

/-- A member leaves its clause for the clause at `pc` (R44, R78). -/
def Thread.leave (t : Thread) (pc : DWord) : Thread :=
  Thread.settle { t with pc := pc, inCourse := false }

/-- A member leaves its clause into a wait (R71). -/
def Thread.park (t : Thread) (pc : DWord) (st : TState) : Thread := { t with pc := pc, inCourse := false, st := st }

/-! ### Faults (R296 to R303) -/

/-- A fault of an access or operation, before it is charged to an engine: cause, virtual and physical address, field code. -/
structure Flt where
  cause : Nat
  va : DWord
  pa : Nat
  field : Nat
  wr : Bool
  alias_ : Bool
  deriving DecidableEq, Repr

/-- A fault with a cause alone. -/
def Flt.plain (cause : Nat) : Flt := { cause := cause, va := 0, pa := 0, field := 0, wr := false, alias_ := false }

/-- A shape fault with its field code. -/
def Flt.shape (field : Nat) : Flt := { cause := 0x15, va := 0, pa := 0, field := field, wr := false, alias_ := false }

/-- A fault at a virtual address. -/
def Flt.at_ (cause : Nat) (va : Nat) (wr : Bool) : Flt :=
  { cause := cause, va := BitVec.ofNat 64 va, pa := 0, field := 0, wr := wr, alias_ := false }

/-- The causes 0x01 to 0x03 are replayable (R296). -/
def Flt.nr (f : Flt) : Bool := 0x10 ≤ f.cause

/-- What an operation charges a fault to: engine, core, block slot, clause address, word, INFO0 and INFO1 (R298, R299). -/
structure Charge where
  engine : Engine
  core : Nat
  slot : Nat
  addr : DWord
  word : DWord
  info0 : Word
  info1 : Word
  /-- The number of the operation or access (the model's own: see FaultInfo.op). -/
  op : Nat := 0
  deriving DecidableEq, Repr

/-- The fault's entry before it is written, with what it suspends where it is replayable. -/
def Charge.info (c : Charge) (f : Flt) (cyc : DWord) (susp : Susp) : FaultInfo :=
  { cause := f.cause, engine := c.engine, nr := f.nr, core := c.core, slot := c.slot, va := f.va, addr := c.addr, word := c.word,
    info0 := c.info0, info1 := c.info1, pa := f.pa, field := f.field, wr := f.wr, alias_ := f.alias_, cyc := cyc, pos := c.info0,
    susp := if f.nr then none else some susp, op := c.op }

/-- Engine codes (R298). -/
def Engine.code : Engine → Nat
  | .simt => 0
  | .matrix => 1
  | .sweep => 2
  | .copy => 3
  | .comet => 4
  | .ply => 5
  | .walker => 6
  | .fetch => 7

/-- The order among faults raised in one fabric cycle: the lower core, the walker counting as core 256, then the lower engine code (R305).
(DEDUCED, log entry 49.) -/
def FaultInfo.rank (f : FaultInfo) : Nat := 8 * (if f.engine == .walker then 256 else f.core) + f.engine.code

/-- The halt line with one more non-replayable fault (R303, R305). (DEDUCED, log entry 49.) -/
def haltWith (h : Option Halt) (f : FaultInfo) : Halt :=
  match h with
  | none => { primary := f, faults := [f], settled := false, skidded := false, done := false }
  | some h =>
    { h with primary := if !h.settled && !h.faults.isEmpty && f.rank < h.primary.rank then f else h.primary, faults := h.faults ++ [f] }

/-- A context takes a fault: its entry waits to be written (R300), and a non-replayable one raises the halt line (R303, R305). -/
def Context.raise (c : Context) (f : FaultInfo) : Context :=
  { c with waiting := c.waiting ++ [f], halt := if f.nr then some (haltWith c.halt f) else c.halt }

/-- TAKING A FAULT: the one operation by which every agent of the machine takes one (R296 to R303). -/
def Dev.raise (m : Dev) (asid : Nat) (f : FaultInfo) : Dev := m.modCtx asid fun c => c.raise f

/-- A fault charged to an operation of a context. (DEDUCED, log entry 51.) -/
def Dev.charge (m : Dev) (asid : Nat) (c : Charge) (f : Flt) (susp : Susp) : Dev :=
  m.raise asid (c.info f (match c.engine with | .walker => 0 | _ => (m.core c.core).cyc) susp)

/-- An operation that a replayable fault has suspended: its entry waits to be written or carries a tag (R302). -/
def Context.suspends (c : Context) (x : Susp) : Bool :=
  c.waiting.any (fun f => f.susp == some x) || c.tagged.any fun t => t.info.susp == some x

/-- The same for a context of the machine. -/
def Dev.suspended (m : Dev) (asid : Nat) (x : Susp) : Bool :=
  match m.ctx asid with
  | some c => c.suspends x
  | none => false

/-- A context whose engines may work: it exists and its halt line is not raised (R303). -/
def Dev.live (m : Dev) (asid : Nat) : Bool :=
  match m.ctx asid with
  | some c => c.halt.isNone && (c.st == .running || c.st == .idle)
  | none => false

/-- The operation that a charge names has taken a non-replayable fault in the halt that goes on: it is not performed (R303). -/
def Dev.failed (m : Dev) (asid : Nat) (c : Charge) : Bool :=
  match (m.ctx asid).bind fun x => x.halt with
  | some h => h.faults.any fun f =>
      f.cause != 0x1E && f.op == c.op && f.engine == c.engine && f.core == c.core && f.slot == c.slot && f.addr == c.addr && f.word == c.word && f.info0 == c.info0 &&
        (c.engine == .copy || f.info1 == c.info1)
  | none => false

/-! ### How operations run -/

/-- Why an operation does not complete in this step. -/
inductive Stop where
  | wait
  | flt (f : Flt)
  deriving DecidableEq, Repr

/-- An operation over the machine that may wait or fault part way; what it has done before remains done (R102). -/
abbrev Act (α : Type) := ExceptT Stop (StateM Dev) α

/-- Runs an operation. -/
def Act.go {α : Type} (a : Act α) (m : Dev) : Except Stop α × Dev := Id.run (StateT.run (ExceptT.run a) m)

/-- The operation waits. -/
def actWait {α : Type} : Act α := throw .wait

/-- The operation faults (R103, Fault). -/
def actFault {α : Type} (f : Flt) : Act α := throw (.flt f)

/-- A device step that leaves the features alone: every step but those of R3 to R5. (DESIGN CHOICE, log entry 11.) -/
def onM (s : State) (f : Features → Dev → Dev) : Host.Outcome State Fault Refusal := .next { s with m := f s.feat s.m }

/-- A step by which a host reaches the device's registers or memory: a device in recovery answers none (R335). (DESIGN CHOICE, log entry 11.) -/
def hostOp (s : State) (f : Features → Dev → Dev) : Host.Outcome State Fault Refusal :=
  onM s fun ft m => if m.mgmt.boot == .recovery then m else f ft m

/-- What a word sees beside its thread (R41, R89): the cursor, the extension, and the block. -/
structure Env where
  ft : Features
  cu : Cursor
  cyc : DWord
  blk : Block
  deriving DecidableEq, Repr

/-- The member that `cur` names (the model's own): the environment of the word and the thread; none where there is no such member. -/
def State.member (s : State) : Option (Env × Thread) :=
  match s.m.cur with
  | none => none
  | some cu =>
    match s.m.block cu.core cu.blk with
    | none => none
    | some b => some ({ ft := s.feat, cu := cu, cyc := (s.m.core cu.core).cyc, blk := b }, b.thread cu.slot)

/-- The park marker takes effect whether or not the guard holds (R78). -/
def Thread.mark (t : Thread) (c : Ctl) : Thread := if c.park then { t with parkMark := true } else t

/-- The member's thread after the word's park marker. -/
def Dev.marked (m : Dev) (cu : Cursor) (c : Ctl) : Dev := m.modThread cu.core cu.blk cu.slot fun t => t.mark c

/-- A word that changes only its thread: with a false guard it changes nothing but for the marker (R44, R69, R70, R78). -/
def regWord (c : Ctl) (s : State) (f : Env → Thread → Thread) : Host.Outcome State Fault Refusal :=
  match s.member with
  | none => .fault .noMember
  | some (e, t) =>
    .next { s with m := s.m.modThread e.cu.core e.cu.blk e.cu.slot fun x => (if t.guard c then f e else id) (x.mark c) }

/-- A word that changes more than its thread. -/
def word (c : Ctl) (s : State) (f : Env → Thread → Dev → Dev) : Host.Outcome State Fault Refusal :=
  match s.member with
  | none => .fault .noMember
  | some (e, t) => .next { s with m := (if t.guard c then f e t else id) (s.m.marked e.cu c) }

/-- One of the eleven words of R71: with a false guard the member goes on to the next clause. -/
def lastWord (c : Ctl) (s : State) (f : Env → Thread → Dev → Dev) : Host.Outcome State Fault Refusal :=
  match s.member with
  | none => .fault .noMember
  | some (e, t) =>
    .next { s with
      m := (if t.guard c then f e t
        else fun m => m.modThread e.cu.core e.cu.blk e.cu.slot fun x => x.leave (nextClause e.cu.addr e.cu.hdr)) (s.m.marked e.cu c) }

/-- Changes the member's thread. -/
def Env.mod (e : Env) (m : Dev) (f : Thread → Thread) : Dev := m.modThread e.cu.core e.cu.blk e.cu.slot f

/-- The charge of a word's own fault: engine SIMT, INFO0 the word's position (R299). -/
def Env.charge (e : Env) : Charge :=
  { engine := .simt, core := e.cu.core, slot := e.cu.slot, addr := e.cu.addr, word := e.cu.word, info0 := BitVec.ofNat 32 e.cu.pos, info1 := 0 }

/-- A word takes a non-replayable fault: the member executes no further word (R46, R304). -/
def Env.fault (e : Env) (m : Dev) (f : Flt) : Dev :=
  e.mod (m.charge e.blk.asid e.charge f (.access 0 0)) fun t => { t with stopped := true }

/-- The next operation number. -/
def Dev.fresh (m : Dev) : Dev := { m with nextId := m.nextId + 1 }

/-- A value that nothing constrains (Config.freeWord), and the count of such values taken. (DESIGN CHOICE, log entry 8.) -/
def Dev.freeWord (m : Dev) : Word × Dev := (Config.freeWord m.freeCtr, { m with freeCtr := m.freeCtr + 1 })

/-- Every thread of the machine: core, block, slot, thread. -/
def Dev.threads (m : Dev) : List (Nat × Nat × Nat × Thread) :=
  m.cores.flatMap fun (i, c) => c.blocks.flatMap fun b => b.threads.map fun (s, t) => (i, b.id, s, t)

/-- The blocks of a context, with their cores. -/
def Dev.blocksOf (m : Dev) (asid : Nat) : List (Nat × Block) :=
  m.cores.flatMap fun (i, c) => (c.blocks.filter fun b => b.asid == asid).map fun b => (i, b)

end Sys2Proof.Machine
end

