-- ==== Sys2Proof/Machine/Issue.lean ====
section
/-! DEFINITION. How an issue slot issues the words of a clause to the members of a course (R43, R44, R70, R89): which word goes to
which member next, and what follows when it has run. -/

namespace Sys2Proof.Machine

open Sys2Proof

/-- The course in flight on an issue slot. -/
def Core.course (c : Core) (islot : Nat) : Option Course := c.courses.find? fun x => x.islot == islot

/-- The instruction buffer's clause at an address (R48). -/
def Core.clause (c : Core) (asid : Nat) (addr : DWord) : Option BufClause := c.ibuf.find? fun x => x.asid == asid && x.addr == addr

/-- The extension that word `pos` takes from a PFX before it (R89). -/
def BufClause.extAt (b : BufClause) (pos : Nat) : Option Word :=
  match pos with
  | 0 => none
  | k + 1 =>
    let w := b.words.getD k 0
    if isPfx (headerOf b.hdr).cls (opcOf w).toNat then some (riOf w).imm else none

/-- The word that the course on an issue slot issues next, decoded in its clause's class, and the member it issues to. -/
def Dev.issueAt (m : Dev) (core islot : Nat) : Option (Cursor × Instr) := do
  let c ← (m.core core).course islot
  let blk ← m.block core c.blk
  let b ← (m.core core).clause blk.asid c.addr
  let slot ← c.members[c.idx]?
  let w ← b.words[c.pos]?
  if !c.entered then none
  else
    match decodeWord (headerOf b.hdr).cls w with
    | .ok i =>
      some ({ core := core, blk := c.blk, slot := slot, islot := islot, addr := c.addr, hdr := b.hdr, word := w, pos := c.pos,
              ext := b.extAt c.pos }, i)
    | .error _ => none

/-- Replaces the course of an issue slot, or dissolves it (R43). -/
def Core.putCourse (c : Core) (islot : Nat) (x : Option Course) : Core :=
  { c with courses := (c.courses.filter fun y => y.islot != islot) ++ x.toList }

/-- The course after one word has issued to one member: to the next member, or the next word in a later core cycle, or the course dissolves.
(DEDUCED, log entry 16.) -/
def Course.next (c : Course) (count : Nat) (gone : Bool) (cyc : DWord) : Option Course :=
  let ms := if gone then c.members.eraseIdx c.idx else c.members
  let i := if gone then c.idx else c.idx + 1
  if i < ms.length then some { c with members := ms, idx := i }
  else if c.pos + 1 < count && !ms.isEmpty then some { c with members := ms, pos := c.pos + 1, idx := 0, last := some cyc }
  else none

/-- The member's word is its clause's last and none of the eleven of R71: it leaves for the next clause. -/
def Cursor.leaves (cu : Cursor) : Bool :=
  let h := headerOf cu.hdr
  cu.pos + 1 == h.count && !lastOnly h.cls (opcOf cu.word).toNat

/-- What follows a word that has run for a member: it leaves where its clause ends (R44), and the course goes on; a member that has
taken a non-replayable fault executes no further word (R304). -/
def Dev.afterWord (m : Dev) (cu : Cursor) : Dev :=
  let gone := match m.thread cu.core cu.blk cu.slot with
    | some t => t.stopped
    | none => true
  let m1 := if cu.leaves && !gone then m.modThread cu.core cu.blk cu.slot fun t => t.leave (nextClause cu.addr cu.hdr) else m
  let m2 := m1.modCore cu.core fun c =>
    match c.course cu.islot with
    | some x => c.putCourse cu.islot (x.next (headerOf cu.hdr).count gone c.cyc)
    | none => c
  { m2 with cur := none }

/-- A course has a word to issue in this core cycle: the words of a clause issue one per core cycle (R44). (DEDUCED, log entry 16.) -/
def Course.due (x : Course) (cyc : DWord) : Bool := x.entered && x.last != some cyc

/-- An issue slot with a course that has a word to issue: the first core and slot. -/
def Dev.firstIssue (m : Dev) : Option (Nat × Nat) :=
  m.cores.findSome? fun (i, c) => (c.courses.find? fun x => x.due c.cyc).map fun x => (i, x.islot)

/-- The issue slot of a core has a word to issue in this core cycle. -/
def Dev.mayIssue (m : Dev) (core islot : Nat) : Bool :=
  match (m.core core).course islot with
  | some x => x.due (m.core core).cyc
  | none => false

/-- A course whose word cannot be issued (its block or clause is gone) is dissolved. -/
def Dev.dropCourse (m : Dev) (core islot : Nat) : Dev := m.modCore core fun c => c.putCourse islot none

end Sys2Proof.Machine
end

