-- ==== Sys2Proof/Machine/Float.lean ====
section
/-! DEFINITION. IEEE 754 values held exactly, exact arithmetic on them and rounding to a format (R117, R128, R129, R338). -/

namespace Sys2Proof.Machine

open Sys2Proof

/-- A floating-point value held exactly: NaN, an infinity, or (-1)^neg · m · 2^e with its sign of zero. -/
inductive FVal where
  | nan
  | inf (neg : Bool)
  | fin (neg : Bool) (m : Nat) (e : Int)
  deriving DecidableEq, Repr

/-- Rounding modes, md[1:0] and RND (R108, R122). -/
inductive Rnd where
  | rne | rz | ru | rd
  deriving DecidableEq, Repr

/-- The rounding mode of a two-bit code. -/
def rndOf (n : Nat) : Rnd := match n with | 0 => .rne | 1 => .rz | 2 => .ru | _ => .rd

/-- An IEEE format: exponent bits and mantissa bits. -/
structure FFmt where
  eb : Nat
  mb : Nat
  deriving DecidableEq, Repr

def FFmt.f32 : FFmt := ⟨8, 23⟩
def FFmt.f16 : FFmt := ⟨5, 10⟩
def FFmt.bf16 : FFmt := ⟨8, 7⟩
def FFmt.e5m2 : FFmt := ⟨5, 2⟩
def FFmt.e4m3 : FFmt := ⟨4, 3⟩

/-- The exponent bias. -/
def FFmt.bias (f : FFmt) : Nat := 2 ^ (f.eb - 1) - 1

/-- The exponent of the least bit of a subnormal. -/
def FFmt.qmin (f : FFmt) : Int := 1 - (f.bias : Int) - f.mb

/-- The bits of +infinity. -/
def FFmt.infBits (f : FFmt) : Nat := (2 ^ f.eb - 1) * 2 ^ f.mb

/-- The canonical NaN (R123, R128). -/
def FFmt.nanBits (f : FFmt) : Nat := f.infBits + 2 ^ (f.mb - 1)

/-- A magnitude with its sign bit. -/
def FFmt.signed (f : FFmt) (neg : Bool) (mag : Nat) : Nat := if neg then 2 ^ (f.eb + f.mb) + mag else mag

/-- The exact value of the word `w` (IEEE 754-2019). -/
def FFmt.decode (f : FFmt) (w : Nat) : FVal :=
  let neg := bitsOf w (f.eb + f.mb) 1 == 1
  let ex := bitsOf w f.mb f.eb
  let fr := bitsOf w 0 f.mb
  if ex = 2 ^ f.eb - 1 then (if fr = 0 then .inf neg else .nan)
  else if ex = 0 then .fin neg fr f.qmin
  else .fin neg (2 ^ f.mb + fr) (f.qmin + (ex - 1 : Nat))

/-- Whether a magnitude cut between two neighbours goes up: `odd` is the lower one's last bit, `cmp` compares what was cut with
half a unit, `inexact` says that anything was cut. -/
def roundsUp (mode : Rnd) (neg odd : Bool) (cmp : Ordering) (inexact : Bool) : Bool :=
  match mode with
  | .rne => cmp == .gt || (cmp == .eq && odd)
  | .rz => false
  | .ru => inexact && !neg
  | .rd => inexact && neg

/-- m · 2^e cut to a multiple of 2^q and rounded; with `sticky` the value lies strictly between m and m + 1 units of 2^e. -/
def roundTo (mode : Rnd) (neg : Bool) (m : Nat) (e q : Int) (sticky : Bool) : Nat :=
  if q ≤ e then m * 2 ^ (e - q).toNat
  else
    let s := (q - e).toNat
    let keep := m / 2 ^ s
    let rem := m % 2 ^ s
    let cmp := match compare (2 * rem) (2 ^ s) with
      | .eq => if sticky then .gt else .eq
      | o => o
    if roundsUp mode neg (keep % 2 == 1) cmp (rem != 0 || sticky) then keep + 1 else keep

/-- The magnitude bits of m · 2^e rounded into the format with its exponent range unbounded above: at or above `infBits` where
the rounded value overflows. -/
def FFmt.roundMag (f : FFmt) (mode : Rnd) (neg : Bool) (m : Nat) (e : Int) (sticky : Bool) : Nat :=
  if m = 0 && !sticky then 0
  else
    let q := max ((bitLen m : Int) + e - 1 - f.mb) f.qmin
    (q - f.qmin).toNat * 2 ^ f.mb + roundTo mode neg m e q sticky

/-- The largest finite magnitude. -/
def FFmt.maxBits (f : FFmt) : Nat := f.infBits - 1

/-- What an overflow gives: the largest finite value under saturation or against the mode's direction, else infinity (R123, R134, R338). -/
def FFmt.overflow (f : FFmt) (mode : Rnd) (sat neg : Bool) : Nat :=
  let toInf := match mode with | .rne => true | .rz => false | .ru => !neg | .rd => neg
  f.signed neg (if toInf && !sat then f.infBits else f.maxBits)

/-- Rounds a finite magnitude into the format's bits, with overflow by mode and saturation. -/
def FFmt.pack (f : FFmt) (mode : Rnd) (sat neg : Bool) (m : Nat) (e : Int) (sticky : Bool) : Nat :=
  let r := f.roundMag mode neg m e sticky
  if f.infBits ≤ r then f.overflow mode sat neg else f.signed neg r

/-- Round of an exact value (R103, R338): NaN becomes the canonical NaN, an infinity stays. -/
def FFmt.round (f : FFmt) (mode : Rnd) (sat : Bool) (x : FVal) : Nat :=
  match x with
  | .nan => f.nanBits
  | .inf neg => f.signed neg f.infBits
  | .fin neg m e => f.pack mode sat neg m e false

/-! ### Exact arithmetic -/

/-- -x. -/
def FVal.neg : FVal → FVal
  | .nan => .nan
  | .inf s => .inf (!s)
  | .fin s m e => .fin (!s) m e

/-- The signed integer of a finite value scaled by 2^(-e0), for e0 ≤ e. -/
def scaled (neg : Bool) (m : Nat) (e e0 : Int) : Int :=
  let v : Int := (m * 2 ^ (e - e0).toNat : Nat)
  if neg then -v else v

/-- x + y exactly; a zero sum's sign follows R364: same-signed zeros keep it, else +0, or -0 under .rd. -/
def FVal.add (mode : Rnd) (x y : FVal) : FVal :=
  match x, y with
  | .nan, _ => .nan
  | _, .nan => .nan
  | .inf s, .inf t => if s == t then .inf s else .nan
  | .inf s, .fin .. => .inf s
  | .fin .., .inf t => .inf t
  | .fin s m e, .fin t n k =>
    let e0 := min e k
    let v := scaled s m e e0 + scaled t n k e0
    if v = 0 then .fin (if m = 0 && n = 0 && s == t then s else mode == .rd) 0 e0
    else .fin (decide (v < 0)) v.natAbs e0

/-- x · y exactly (R372). -/
def FVal.mul (x y : FVal) : FVal :=
  match x, y with
  | .nan, _ => .nan
  | _, .nan => .nan
  | .inf s, .inf t => .inf (s != t)
  | .inf s, .fin t n _ => if n = 0 then .nan else .inf (s != t)
  | .fin s m _, .inf t => if m = 0 then .nan else .inf (s != t)
  | .fin s m e, .fin t n k => .fin (s != t) (m * n) (e + k)

/-- x·y + z exactly (R369). -/
def FVal.fma (mode : Rnd) (x y z : FVal) : FVal := (x.mul y).add mode z

/-- The order of two finite or infinite values, -0 equal to +0. -/
def FVal.cmp (x y : FVal) : Ordering :=
  match x, y with
  | .inf s, .inf t => if s == t then .eq else if s then .lt else .gt
  | .inf s, _ => if s then .lt else .gt
  | _, .inf t => if t then .gt else .lt
  | .fin s m e, .fin t n k => let e0 := min e k; compare (scaled s m e e0) (scaled t n k e0)
  | _, _ => .eq

/-- A result that need not be exact: a special value, or a magnitude with the sticky mark of `roundTo`. -/
inductive Approx where
  | special (x : FVal)
  | mag (neg : Bool) (m : Nat) (e : Int) (sticky : Bool)
  deriving DecidableEq, Repr

/-- Rounds an Approx into a format. -/
def FFmt.finish (f : FFmt) (mode : Rnd) (sat : Bool) (x : Approx) : Nat :=
  match x with
  | .special v => f.round mode sat v
  | .mag neg m e st => f.pack mode sat neg m e st

/-- x / y (IEEE 754). -/
def FVal.div (x y : FVal) : Approx :=
  match x, y with
  | .nan, _ => .special .nan
  | _, .nan => .special .nan
  | .inf _, .inf _ => .special .nan
  | .inf s, .fin t _ _ => .special (.inf (s != t))
  | .fin s _ _, .inf t => .special (.fin (s != t) 0 0)
  | .fin s m e, .fin t n k =>
    if n = 0 then (if m = 0 then .special .nan else .special (.inf (s != t)))
    else if m = 0 then .special (.fin (s != t) 0 0)
    else
      let sh := 64 + bitLen n
      let num := m * 2 ^ sh
      .mag (s != t) (num / n) (e - k - sh) (num % n != 0)

/-- The integer square root, bit by bit from bit `i - 1` down. -/
def isqrtFrom (x s i : Nat) : Nat :=
  match i with
  | 0 => s
  | k + 1 => let t := s + 2 ^ k; if t * t ≤ x then isqrtFrom x t k else isqrtFrom x s k

/-- ⌊√x⌋. -/
def isqrt (x : Nat) : Nat := isqrtFrom x 0 (bitLen x / 2 + 1)

/-- 1/√x with the cases of R129. -/
def FVal.rsqrt (x : FVal) : Approx :=
  match x with
  | .nan => .special .nan
  | .inf s => .special (if s then .nan else .fin false 0 0)
  | .fin s m e =>
    if m = 0 then .special (.inf s)
    else if s then .special .nan
    else
      let (m, e) := if e % 2 = 0 then (m, e) else (2 * m, e - 1)
      let p := 64 + bitLen m
      let r := isqrt (2 ^ (2 * p) / m)
      .mag false r (-(e / 2) - p) (r * r * m != 2 ^ (2 * p))

/-! ### Exponentials and logarithms: fixed point with Config.transcendentalBits fraction bits (log entry 6) -/

/-- Fraction bits of the working precision. -/
def fxP : Nat := Config.transcendentalBits

/-- Σ z^(2k+1)/(2k+1) from the term `t` (z^(2k+1)) on, in fixed point: atanh. -/
def atanhFrom (z2 t k fuel : Nat) : Nat :=
  match fuel with
  | 0 => 0
  | f + 1 => t / (2 * k + 1) + atanhFrom z2 (t * z2 / 2 ^ fxP) (k + 1) f

/-- atanh(num/den) for num/den ≤ 1/3. -/
def fxAtanh (num den : Nat) : Nat :=
  let z := num * 2 ^ fxP / den
  atanhFrom (z * z / 2 ^ fxP) z 0 72

/-- ln 2. -/
def fxLn2 : Nat := 2 * fxAtanh 1 3

/-- Σ y^k/k! from the term `t` on, in fixed point: exp y. -/
def expFrom (y t k fuel : Nat) : Nat :=
  match fuel with
  | 0 => 0
  | f + 1 => t + expFrom y (t * y / 2 ^ fxP / (k + 1)) (k + 1) f

/-- e^y for 0 ≤ y < 1, in fixed point. -/
def fxExp (y : Nat) : Nat := expFrom y (2 ^ fxP) 0 64

/-- A finite value in fixed point, exact for exponents of the formats. -/
def fxOf (neg : Bool) (m : Nat) (e : Int) : Int :=
  let k := e + fxP
  let v : Int := if 0 ≤ k then (m * 2 ^ k.toNat : Nat) else (m / 2 ^ (-k).toNat : Nat)
  if neg then -v else v

/-- 2^x (R129, R368). (DEDUCED, log entry 6.) -/
def FVal.exp2 (x : FVal) : Approx :=
  match x with
  | .nan => .special .nan
  | .inf s => .special (if s then .fin false 0 0 else .inf false)
  | .fin s m e =>
    if m = 0 then .mag false 1 0 false
    else if 12 < (bitLen m : Int) + e then .mag false 1 (if s then -5000 else 5000) false
    else
      let v := fxOf s m e
      let n := v / ((2 ^ fxP : Nat) : Int)
      let y := (v % ((2 ^ fxP : Nat) : Int)).toNat
      if y = 0 then .mag false 1 n false
      else .mag false (fxExp (y * fxLn2 / 2 ^ fxP)) (n - fxP) true

/-- e^x (R129). -/
def FVal.exp (x : FVal) : Approx :=
  match x with
  | .nan => .special .nan
  | .inf s => .special (if s then .fin false 0 0 else .inf false)
  | .fin s m e =>
    if m = 0 then .mag false 1 0 false
    else if 12 < (bitLen m : Int) + e then .mag false 1 (if s then -5000 else 5000) false
    else
      let v := fxOf s m e
      let n := v / (fxLn2 : Int)
      let y := (v % (fxLn2 : Int)).toNat
      .mag false (fxExp y) (n - fxP) true

/-- k and ln t of x = t · 2^k with 1 ≤ t < 2, in fixed point. -/
def fxLog (m : Nat) (e : Int) : Int × Nat :=
  let l := bitLen m
  ((l : Int) - 1 + e, 2 * fxAtanh (m - 2 ^ (l - 1)) (m + 2 ^ (l - 1)))

/-- An inexact fixed-point value as an Approx. (DEDUCED, log entry 6.) -/
def fxApprox (v : Int) : Approx :=
  if v < 0 then .mag true ((-v).toNat - 1) (-(fxP : Int)) true else .mag false v.toNat (-(fxP : Int)) true

/-- log2 x (R129, R370). -/
def FVal.log2 (x : FVal) : Approx :=
  match x with
  | .nan => .special .nan
  | .inf s => .special (if s then .nan else .inf false)
  | .fin s m e =>
    if m = 0 then .special (.inf true)
    else if s then .special .nan
    else
      let (k, t) := fxLog m e
      if m = 2 ^ (bitLen m - 1) then (if k = 0 then .special (.fin false 0 0) else .mag (decide (k < 0)) k.natAbs 0 false)
      else fxApprox (k * ((2 ^ fxP : Nat) : Int) + (t * 2 ^ fxP / fxLn2 : Nat))

/-- ln x, for the sizes of R132: 0 gives -∞, a negative value NaN. -/
def FVal.ln (x : FVal) : Approx :=
  match x with
  | .nan => .special .nan
  | .inf s => .special (if s then .nan else .inf false)
  | .fin s m e =>
    if m = 0 then .special (.inf true)
    else if s then .special .nan
    else
      let (k, t) := fxLog m e
      if m = 2 ^ (bitLen m - 1) && k = 0 then .special (.fin false 0 0)
      else fxApprox (k * (fxLn2 : Int) + (t : Int))

/-! ### binary32 operations, rounding to nearest even: sweep, matrix and ply arithmetic (R128, R164, R269) -/

/-- The value of a binary32 word. -/
def f32 (w : Word) : FVal := FFmt.f32.decode w.toNat

/-- Rounds to binary32 by RNE. -/
def f32Round (sat : Bool) (x : FVal) : Word := BitVec.ofNat 32 (FFmt.f32.round .rne sat x)

/-- Rounds an Approx to binary32 by RNE. -/
def f32Finish (sat : Bool) (x : Approx) : Word := BitVec.ofNat 32 (FFmt.f32.finish .rne sat x)
def f32Add (sat : Bool) (x y : Word) : Word := f32Round sat ((f32 x).add .rne (f32 y))
def f32Mul (sat : Bool) (x y : Word) : Word := f32Round sat ((f32 x).mul (f32 y))
def f32Fma (sat : Bool) (x y z : Word) : Word := f32Round sat ((f32 x).fma .rne (f32 y) (f32 z))
def f32Div (x y : Word) : Word := f32Finish false ((f32 x).div (f32 y))

/-- The canonical NaN of binary32 (R103). -/
def f32Nan : Word := 0x7FC00000

/-- The word is a NaN. -/
def f32IsNan (w : Word) : Bool := f32 w == .nan

end Sys2Proof.Machine
end

