-- ==== Sys2Proof/Machine/Formats.lean ====
section
/-! DEFINITION. The matrix operand formats (R116 to R120), format slots (R122, R123) and block-affine scales (R124). -/

namespace Sys2Proof.Machine

open Sys2Proof

/-- The length of the run of bits equal to bit `i - 1` of `b`, from there down: at most `i`. -/
def runLen (b i : Nat) (bit : Bool) : Nat :=
  match i with
  | 0 => 0
  | k + 1 => if b.testBit k == bit then 1 + runLen b k bit else 0

/-- DecodeTapered (R118): an NX word is NaN here; DecodeFormat applies the slot's NX policy. -/
def decodeTapered (w n es : Nat) : FVal :=
  if w = 0 then .fin false 0 0
  else if w = 2 ^ (n - 1) then .nan
  else
    let s := w.testBit (n - 1)
    let b := (if s then 2 ^ n - w else w) % 2 ^ (n - 1)
    let top := b.testBit (n - 2)
    let m := runLen b (n - 1) top
    let k : Int := if top then (m : Int) - 1 else -(m : Int)
    let left := n - 1 - m - 1
    let rest := b % 2 ^ left
    let e := if es ≤ left then rest / 2 ^ (left - es) else rest * 2 ^ (es - left)
    let fl := left - es
    .fin s (2 ^ fl + rest % 2 ^ fl) (k * (2 ^ es : Nat) + e - fl)

/-- EncodeTapered (R119) of a non-zero finite magnitude: the magnitude word, rounded on the encoded bit string. -/
def taperedMag (mode : Rnd) (neg : Bool) (m : Nat) (e : Int) (n es : Nat) : Nat :=
  let l := bitLen m
  let sc : Int := (l : Int) - 1 + e
  let k := sc / (2 ^ es : Nat)
  let ee := (sc % (2 ^ es : Nat)).toNat
  if (n : Int) - 2 < k || (k = (n : Int) - 2) then 2 ^ (n - 1) - 1
  else
    let (r, rl) := if 0 ≤ k then ((2 ^ (k.toNat + 1) - 1) * 2, k.toNat + 2) else (1, (-k).toNat + 1)
    let str := (r * 2 ^ es + ee) * 2 ^ (l - 1) + (m - 2 ^ (l - 1))
    let total := rl + es + (l - 1)
    if total ≤ n - 1 then str * 2 ^ (n - 1 - total)
    else
      let keep := roundTo mode neg str 0 ((total - (n - 1) : Nat) : Int) false
      if keep = 0 && mode == .rne then 1 else keep

/-- EncodeTapered (R119) of a value that is not NaN. -/
def encodeTapered (x : FVal) (n es : Nat) (mode : Rnd) : Nat :=
  match x with
  | .nan => 2 ^ (n - 1)
  | .inf neg => if neg then 2 ^ (n - 1) + 1 else 2 ^ (n - 1) - 1
  | .fin neg m e =>
    if m = 0 then 0
    else
      let w := taperedMag mode neg m e n es
      if neg && w != 0 then 2 ^ n - w else w

/-- The number formats, codes 0 to 11 (R116). -/
inductive NumFmt where
  | t6 | t8 | t8e | t16 | i4 | i8 | n8 | e4m3 | e5m2 | fp16 | bf16 | fp32
  deriving DecidableEq, Repr

/-- The format of a code; 12 to 15 are refused at launch (R122). -/
def numFmtOf (c : Nat) : NumFmt :=
  match c with
  | 0 => .t6 | 1 => .t8 | 2 => .t8e | 3 => .t16 | 4 => .i4 | 5 => .i8 | 6 => .n8 | 7 => .e4m3 | 8 => .e5m2 | 9 => .fp16 | 10 => .bf16
  | _ => .fp32

/-- Bits of an element (R116). -/
def NumFmt.bits : NumFmt → Nat
  | .t6 => 6 | .i4 => 4
  | .t8 | .t8e | .i8 | .n8 | .e4m3 | .e5m2 => 8
  | .t16 | .fp16 | .bf16 => 16
  | .fp32 => 32

/-- The core cycles of one dense k-block on the slower format (R228). -/
def NumFmt.kCycles : NumFmt → Nat
  | .i4 => 4
  | .t6 | .t8 | .t8e | .i8 | .n8 | .e4m3 | .e5m2 => 8
  | .t16 | .fp16 | .bf16 => 16
  | .fp32 => 64

/-- A format slot's fields (R122). -/
structure Slot where
  fmt : NumFmt
  scale : Bool
  rnd : Rnd
  sat : Bool
  nxz : Bool
  deriving DecidableEq, Repr

/-- Reads a slot's 16 bits. -/
def slotOf (w : BitVec 16) : Slot :=
  { fmt := numFmtOf (bitsOf w.toNat 0 4), scale := w.getLsbD 6, rnd := rndOf (bitsOf w.toNat 7 2), sat := w.getLsbD 9, nxz := w.getLsbD 10 }

/-- The launch refuses a slot (R122): FMT 12 to 15, a reserved bit, SCALE with a format other than I4, I8, N8. -/
def slotBad (w : BitVec 16) : Bool :=
  let f := bitsOf w.toNat 0 4
  12 ≤ f || bitsOf w.toNat 4 2 != 0 || bitsOf w.toNat 11 5 != 0 || (w.getLsbD 6 && !(4 ≤ f && f ≤ 6))

/-- A signed integer as an exact value; zero is +0. -/
def intVal (v : Int) : FVal := .fin (decide (v < 0)) v.natAbs 0

/-- DecodeFormat without the NX policy. -/
def decodeRaw (f : NumFmt) (w : Nat) : FVal :=
  let w := w % 2 ^ f.bits
  match f with
  | .t6 => decodeTapered w 6 0
  | .t8 => decodeTapered w 8 0
  | .t8e => decodeTapered w 8 1
  | .t16 => decodeTapered w 16 1
  | .i4 => intVal (signExtend w 4)
  | .i8 => intVal (signExtend w 8)
  | .n8 => intVal w
  | .e4m3 =>
    if bitsOf w 0 7 = 0x7F then .nan
    else
      let neg := w.testBit 7
      let ex := bitsOf w 3 4
      if ex = 0 then .fin neg (bitsOf w 0 3) FFmt.e4m3.qmin else .fin neg (8 + bitsOf w 0 3) (FFmt.e4m3.qmin + (ex - 1 : Nat))
  | .e5m2 => FFmt.e5m2.decode w
  | .fp16 => FFmt.f16.decode w
  | .bf16 => FFmt.bf16.decode w
  | .fp32 => FFmt.f32.decode w

/-- DecodeFormat (R123). -/
def decodeFormat (s : Slot) (w : Nat) : FVal :=
  match decodeRaw s.fmt w with
  | .nan => if s.nxz then .fin false 0 0 else .nan
  | x => x

/-- A finite value rounded to an integer by the mode. -/
def roundInt (mode : Rnd) (neg : Bool) (m : Nat) (e : Int) : Int :=
  let v : Int := (roundTo mode neg m e 0 false : Nat)
  if neg then -v else v

/-- The value clamped into an integer format's range. -/
def encodeInt (mode : Rnd) (x : FVal) (lo hi : Int) : Int :=
  match x with
  | .nan => 0
  | .inf neg => if neg then lo else hi
  | .fin neg m e => let v := roundInt mode neg m e; if v < lo then lo else if hi < v then hi else v

/-- Encoding into an IEEE format of a slot. An infinite value becomes infinity whatever SAT says (DESIGN CHOICE, log entry 99). -/
def encodeIeee (f : FFmt) (s : Slot) (x : FVal) : Nat :=
  match x with
  | .nan => if s.nxz then 0 else f.nanBits
  | x => f.round s.rnd s.sat x

/-- Encoding into a tapered format of a slot. -/
def encodeTap (n es : Nat) (s : Slot) (x : FVal) : Nat :=
  match x with
  | .nan => if s.nxz then 0 else 2 ^ (n - 1)
  | x => encodeTapered x n es s.rnd

/-- Encoding into E4M3: an overflow gives ±448 under SAT, else the NaN of the sign, in every mode; an infinity as overflow (R123). -/
def encodeE4m3 (s : Slot) (x : FVal) : Nat :=
  let ovf (neg : Bool) : Nat := FFmt.e4m3.signed neg (if s.sat then 0x7E else 0x7F)
  match x with
  | .nan => if s.nxz then 0 else 0x7F
  | .inf neg => ovf neg
  | .fin neg m e =>
    let r := FFmt.e4m3.roundMag s.rnd neg m e false
    if 0x7F ≤ r then ovf neg else FFmt.e4m3.signed neg r

/-- EncodeFormat (R123): the format's word. -/
def encodeFormat (s : Slot) (x : FVal) : Nat :=
  match s.fmt with
  | .t6 => encodeTap 6 0 s x
  | .t8 => encodeTap 8 0 s x
  | .t8e => encodeTap 8 1 s x
  | .t16 => encodeTap 16 1 s x
  | .i4 => wrapInt (encodeInt s.rnd x (-8) 7) 4
  | .i8 => wrapInt (encodeInt s.rnd x (-128) 127) 8
  | .n8 => wrapInt (encodeInt s.rnd x 0 255) 8
  | .e4m3 => encodeE4m3 s x
  | .e5m2 => encodeIeee .e5m2 s x
  | .fp16 => encodeIeee .f16 s x
  | .bf16 => encodeIeee .bf16 s x
  | .fp32 => encodeIeee .f32 s x

/-! ### Packing of elements in bytes (R116): element i of a stream lies at bit i · bits, in every format -/

/-- Packs words of `w` bits, the first lowest. -/
def packWords (w : Nat) (l : List Nat) : Nat :=
  match l with
  | [] => 0
  | x :: r => x % 2 ^ w + 2 ^ w * packWords w r

/-- The bytes of packed words; `l.length · w` is a multiple of 8 wherever it is used. -/
def packBytes (w : Nat) (l : List Nat) : List Byte := toBytes (l.length * w / 8) (packWords w l)

/-- Unpacks `n` words of `w` bits. -/
def unpackWords (w n v : Nat) : List Nat :=
  match n with
  | 0 => []
  | k + 1 => v % 2 ^ w :: unpackWords w k (v / 2 ^ w)

/-! ### Block-affine scales (R124, R125) -/

/-- An element q of a block with scale byte E and signed zero point Z: 2^(E-127) · (q - Z). -/
def scaledVal (q : FVal) (e z : Nat) : FVal :=
  match q with
  | .fin neg m k => let v := scaled neg m k 0 - signExtend z 8; .fin (decide (v < 0)) v.natAbs ((e : Int) - 127)
  | x => x

/-- The zero point lies in the format's own range (R125). -/
def zeroPointOk (f : NumFmt) (z : Nat) : Bool :=
  let v := signExtend z 8
  match f with
  | .i4 => -8 ≤ v && v ≤ 7
  | .n8 => 0 ≤ v
  | _ => true

end Sys2Proof.Machine
end

