-- ==== Sys2Proof/Machine/Operands.lean ====
section
/-! DEFINITION. Every operand form: integer sources, immediates and results (R337), floats (R338), addresses (R339), branch targets
(R83, R340), data of memory words (R109). -/

namespace Sys2Proof.Machine

open Sys2Proof

/-! ### Integers (R337) -/

/-- The width of an integer type (R106, R337). -/
def intW (ty : BitVec 4) : Nat := if ty == 3 || ty == 7 then 64 else 32

/-- The type is one of .i8 to .i64 (R82). -/
def intSigned (ty : BitVec 4) : Bool := 4 ≤ ty.toNat && ty.toNat ≤ 7

/-- The bits of a source of `w` bits at register `i`. -/
def Thread.rawAt (t : Thread) (w i : Nat) : Nat := if w = 64 then (t.pair i).toNat else (t.reg i).toNat

/-- A w-bit value as the type reads it. -/
def intVal' (ty : BitVec 4) (x : Nat) : Int := if intSigned ty then signExtend x (intW ty) else ((x % 2 ^ intW ty : Nat) : Int)

/-- The immediate of an RRR word: SignExtend(imm16, 16), or SignExtend(X :: imm16, 48) after a PFX (R89, R337). -/
def rrrImm (ext : Option Word) (imm : BitVec 16) : Int :=
  match ext with
  | some x => signExtend (x.toNat * 2 ^ 16 + imm.toNat) 48
  | none => signExtend imm.toNat 16

/-- The bits of the second source of an RRR word over `w` bits. -/
def rawB (e : Env) (f : RRR) (t : Thread) : Nat :=
  if f.md.getLsbD 7 then wrapInt (rrrImm e.cu.ext f.imm) (intW f.ty) else t.rawAt (intW f.ty) f.b.toNat

/-- The bits of the first source. -/
def rawA (f : RRR) (t : Thread) : Nat := t.rawAt (intW f.ty) f.a.toNat

/-- The bits of the third source. -/
def rawC (f : RRR) (t : Thread) : Nat := t.rawAt (intW f.ty) f.c.toNat

/-- A, B and C as integers (R337). -/
def opA (f : RRR) (t : Thread) : Int := intVal' f.ty (rawA f t)
def opB (e : Env) (f : RRR) (t : Thread) : Int := intVal' f.ty (rawB e f t)
def opC (f : RRR) (t : Thread) : Int := intVal' f.ty (rawC f t)

/-- Writes `w` bits at register `d` with fixed latency. -/
def Thread.putBits (t : Thread) (w d v : Nat) : Thread :=
  if w = 64 then t.setPair d (BitVec.ofNat 64 v) else t.setReg d (BitVec.ofNat 32 v)

/-- The result of the integer mould: modulo 2^w, or clamped under .sat (R337). -/
def putInt (f : RRR) (sat : Bool) (v : Int) (t : Thread) : Thread :=
  t.putBits (intW f.ty) f.d.toNat (wrapInt (if sat then satInt v (intW f.ty) (intSigned f.ty) else v) (intW f.ty))

/-- md[0] .sat of the integer words (R108). -/
def iSat (f : RRR) : Bool := f.md.getLsbD 0

/-! ### Floats (R338) -/

/-- The format of a float type code: .f16 8, .bf16 9, .f32 10 (R82). -/
def fmtOfTy (ty : BitVec 4) : FFmt := if ty == 8 then FFmt.f16 else if ty == 9 then FFmt.bf16 else FFmt.f32

/-- The bits of a float operand (R128). -/
def fbits (ty : BitVec 4) (t : Thread) (i : BitVec 6) : Nat :=
  let x := (t.reg i.toNat).toNat
  if ty == 10 then x else x % 2 ^ 16

/-- A float operand decoded. -/
def fval (ty : BitVec 4) (t : Thread) (i : BitVec 6) : FVal := (fmtOfTy ty).decode (fbits ty t i)

/-- The rounding of a float word, md[1:0] (R108). -/
def fRnd (f : RRR) : Rnd := rndOf (f.md.toNat % 4)

/-- md[2] .sat of a float word (R108). -/
def fSat (f : RRR) : Bool := f.md.getLsbD 2

/-- Rounds an exact result into the word's type and writes it (R338). -/
def putFloat (f : RRR) (x : FVal) (t : Thread) : Thread := t.setReg f.d.toNat (BitVec.ofNat 32 ((fmtOfTy f.ty).round (fRnd f) (fSat f) x))

/-- The same for a result that need not be exact (R129). -/
def putApprox (f : RRR) (x : Approx) (t : Thread) : Thread := t.setReg f.d.toNat (BitVec.ofNat 32 ((fmtOfTy f.ty).finish (fRnd f) (fSat f) x))

/-! ### Addresses -/

/-- The byte offset of a MEM word (R82, R89). -/
def memOff (ext : Option Word) (off : BitVec 16) : Int := rrrImm ext off

/-- The virtual address of a MEM word (R339). -/
def memVa (e : Env) (f : MEM) (t : Thread) : DWord := BitVec.ofInt 64 ((t.pair f.base.toNat).toNat + memOff e.cu.ext f.offset)

/-- The stash offset of LDS and STS: a single register and the offset (R82, R383). -/
def memStashOff (e : Env) (f : MEM) (t : Thread) : Int := ((t.reg f.base.toNat).toNat : Int) + memOff e.cu.ext f.offset

/-- The address has a bit of [63:57] set (R168). -/
def vaBad (va : DWord) : Bool := va.extractLsb' 57 7 != 0

/-- The target of BRA and CALL (R83, R348). -/
def branchTarget (addr : DWord) (off : BitVec 32) : DWord := addr + 8 * off.signExtend 64

/-- The bytes of a type (R82). -/
def tySize (ty : BitVec 4) : Nat :=
  match ty.toNat with
  | 0 | 4 => 1
  | 1 | 5 | 8 | 9 => 2
  | 3 | 7 => 8
  | 11 => 16
  | _ => 4

/-- The registers that a value of `n` bytes fills from `d` up. -/
def regSpan (d n : Nat) : List Nat := if n = 16 then [d, d + 1, d + 2, d + 3] else if n = 8 then [d, d + 1] else [d]

/-- The register words of a value of `n` bytes: the narrow integers extended by their signedness (R130, R382). -/
def loadWords (ty : BitVec 4) (n v : Nat) : List Word :=
  if n = 16 then (List.range 4).map fun i => BitVec.ofNat 32 (v / 2 ^ (32 * i))
  else if n = 8 then [BitVec.ofNat 32 v, BitVec.ofNat 32 (v / 2 ^ 32)]
  else [BitVec.ofNat 32 (if intSigned ty && n < 4 then wrapInt (signExtend v (8 * n)) 32 else v % 2 ^ (8 * n))]

/-- `n` bytes from the registers at `i` (R418). -/
def Thread.bytesAt (t : Thread) (i n : Nat) : Nat :=
  if n = 16 then (t.quad i).toNat else if n = 8 then (t.pair i).toNat else (t.reg i).toNat % 2 ^ (8 * n)

/-- The knot operand layout (R65): the generation in bits [3:0]. -/
def knotGen (v : Word) : Nat := v.toNat % 16

/-- The knot's byte offset in the window (R65). -/
def knotOff (v : Word) : Nat := v.toNat / 16 % 2 ^ 16 * 16

/-- Bits [31:20] are not zero, or the knot's 16 bytes lie beyond the window (R65). -/
def knotBad (v : Word) (winSize : Nat) : Bool := 2 ^ 20 ≤ v.toNat || winSize < knotOff v + 16

end Sys2Proof.Machine
end

