-- ==== Sys2Proof/Machine/Flags.lean ====
section
/-! DEFINITION. Every flag computation: the conditions of CMP and FCMP (R108, R355, R366), the classes of FCLASS (R365) and the flag
of CVT (R134). The machine's flags are its predicates. -/

namespace Sys2Proof.Machine

open Sys2Proof

/-- The condition of CMP, md[2:0] (R108). -/
def cmpCond (c : Nat) (a b : Int) : Bool :=
  match c with
  | 0 => a == b
  | 1 => a != b
  | 2 => a < b
  | 3 => a ≤ b
  | 4 => b < a
  | _ => b ≤ a

/-- The condition of FCMP, md[2:0] (R108, R366). -/
def fcmpCond (c : Nat) (a b : FVal) : Bool :=
  let un := a == .nan || b == .nan
  match c with
  | 0 => !un && a.cmp b == .eq
  | 1 => un || a.cmp b != .eq
  | 2 => !un && a.cmp b == .lt
  | 3 => !un && a.cmp b != .gt
  | 4 => !un && a.cmp b == .gt
  | 5 => !un && a.cmp b != .lt
  | 6 => un
  | _ => !un

/-- The class mask of a float word (R365). -/
def classMask (f : FFmt) (w : Nat) : Nat :=
  let neg := w.testBit (f.eb + f.mb)
  let ex := bitsOf w f.mb f.eb
  let fr := bitsOf w 0 f.mb
  let bit :=
    if ex = 2 ^ f.eb - 1 then (if fr = 0 then (if neg then 0 else 7) else if fr.testBit (f.mb - 1) then 9 else 8)
    else if ex = 0 then (if fr = 0 then (if neg then 3 else 4) else if neg then 2 else 5)
    else if neg then 1 else 6
  2 ^ bit

/-- Whether a float source converts into the integer range without NaN or clamping (R134), and the clamped integer. -/
def toIntFlag (mode : Rnd) (x : FVal) (lo hi : Int) : Int × Bool :=
  match x with
  | .nan => (0, true)
  | .inf neg => (if neg then lo else hi, true)
  | .fin neg m e =>
    let v := roundInt mode neg m e
    if v < lo then (lo, true) else if hi < v then (hi, true) else (v, false)

end Sys2Proof.Machine
end

