-- ==== Sys2Proof/Machine/FloatOps.lean ====
section
/-! DEFINITION. The float words of class 0 (R338, R364 to R374) and the conversions (R134, R135, R358, R359). -/

namespace Sys2Proof.Machine

open Sys2Proof

/-- FADD (R364). -/
def execFadd (c : Ctl) (f : RRR) (s : State) : Host.Outcome State Fault Refusal :=
  regWord c s fun _ t => putFloat f ((fval f.ty t f.a).add (fRnd f) (fval f.ty t f.b)) t

/-- FSUB: FADD of A and -B (R374). -/
def execFsub (c : Ctl) (f : RRR) (s : State) : Host.Outcome State Fault Refusal :=
  regWord c s fun _ t => putFloat f ((fval f.ty t f.a).add (fRnd f) (fval f.ty t f.b).neg) t

/-- FMUL (R372). -/
def execFmul (c : Ctl) (f : RRR) (s : State) : Host.Outcome State Fault Refusal :=
  regWord c s fun _ t => putFloat f ((fval f.ty t f.a).mul (fval f.ty t f.b)) t

/-- FFMA: rounded once (R369). -/
def execFfma (c : Ctl) (f : RRR) (s : State) : Host.Outcome State Fault Refusal :=
  regWord c s fun _ t => putFloat f ((fval f.ty t f.a).fma (fRnd f) (fval f.ty t f.b) (fval f.ty t f.c)) t

/-- The sign of a value, that of a zero included. -/
def FVal.isNeg : FVal → Bool
  | .nan => false
  | .inf s => s
  | .fin s _ _ => s

/-- The lesser or greater of two operands, bit for bit, -0 less than +0 (R371). -/
def pickFloat (fm : FFmt) (greater : Bool) (a b : Nat) : Nat :=
  let x := fm.decode a
  let y := fm.decode b
  if x == .nan then (if y == .nan then fm.nanBits else b)
  else if y == .nan then a
  else
    let aLess := match x.cmp y with
      | .lt => true
      | .gt => false
      | .eq => x.isNeg && !y.isNeg
    if aLess != greater then a else b

/-- FMIN (R371). -/
def execFmin (c : Ctl) (f : RRR) (s : State) : Host.Outcome State Fault Refusal :=
  regWord c s fun _ t => t.setReg f.d.toNat (BitVec.ofNat 32 (pickFloat (fmtOfTy f.ty) false (fbits f.ty t f.a) (fbits f.ty t f.b)))

/-- FMAX (R371). -/
def execFmax (c : Ctl) (f : RRR) (s : State) : Host.Outcome State Fault Refusal :=
  regWord c s fun _ t => t.setReg f.d.toNat (BitVec.ofNat 32 (pickFloat (fmtOfTy f.ty) true (fbits f.ty t f.a) (fbits f.ty t f.b)))

/-- FCMP: writes a predicate (R366). -/
def execFcmp (c : Ctl) (f : RRR) (s : State) : Host.Outcome State Fault Refusal :=
  regWord c s fun _ t => t.setPred f.d.toNat (fcmpCond (f.md.toNat % 8) (fval f.ty t f.a) (fval f.ty t f.b))

/-- FCLASS (R365). -/
def execFclass (c : Ctl) (f : RRR) (s : State) : Host.Outcome State Fault Refusal :=
  regWord c s fun _ t => t.setReg f.d.toNat (BitVec.ofNat 32 (classMask (fmtOfTy f.ty) (fbits f.ty t f.a)))

/-- FRCP (R373). -/
def execFrcp (c : Ctl) (f : RRR) (s : State) : Host.Outcome State Fault Refusal :=
  regWord c s fun _ t => putApprox f (FVal.div (.fin false 1 0) (fval f.ty t f.a)) t

/-- FRSQ (R373). -/
def execFrsq (c : Ctl) (f : RRR) (s : State) : Host.Outcome State Fault Refusal :=
  regWord c s fun _ t => putApprox f (fval f.ty t f.a).rsqrt t

/-- FEXP2 (R368). -/
def execFexp2 (c : Ctl) (f : RRR) (s : State) : Host.Outcome State Fault Refusal :=
  regWord c s fun _ t => putApprox f (fval f.ty t f.a).exp2 t

/-- FLOG2 (R370). -/
def execFlog2 (c : Ctl) (f : RRR) (s : State) : Host.Outcome State Fault Refusal :=
  regWord c s fun _ t => putApprox f (fval f.ty t f.a).log2 t

/-! ### CVT -/

/-- The bits of a type code (R82), for codes 0 to 10. -/
def tyBits (ty : BitVec 4) : Nat := 8 * tySize ty

/-- The type code is a float's (R82). -/
def tyFloat (ty : BitVec 4) : Bool := 8 ≤ ty.toNat && ty.toNat ≤ 10

/-- The source bits of CVT (R358). -/
def cvtRaw (sty : BitVec 4) (a : BitVec 6) (t : Thread) : Nat :=
  if tyBits sty = 64 then (t.pair a.toNat).toNat else (t.reg a.toNat).toNat % 2 ^ tyBits sty

/-- An integer source extended by its signedness. -/
def cvtInt (sty : BitVec 4) (x : Nat) : Int := if intSigned sty then signExtend x (tyBits sty) else (x : Int)

/-- Every value of the source type lies in the destination's range (R134). -/
def rangeHolds (dty sty : BitVec 4) : Bool :=
  if intSigned sty then intSigned dty && tyBits sty ≤ tyBits dty
  else if intSigned dty then tyBits sty < tyBits dty else tyBits sty ≤ tyBits dty

/-- The range of an integer type. -/
def intLo (ty : BitVec 4) : Int := if intSigned ty then -((2 ^ (tyBits ty - 1) : Nat) : Int) else 0
def intHi (ty : BitVec 4) : Int := if intSigned ty then ((2 ^ (tyBits ty - 1) : Nat) : Int) - 1 else ((2 ^ tyBits ty : Nat) : Int) - 1

/-- The result of CVT as an integer of the destination type, or as float bits, with its flag where one is set (R134). -/
def convert (dty sty : BitVec 4) (mode : Rnd) (sat : Bool) (x : Nat) : Int × Option Bool :=
  match tyFloat sty, tyFloat dty with
  | false, false =>
    let v := cvtInt sty x
    if rangeHolds dty sty then (v, none)
    else if sat then (satInt v (tyBits dty) (intSigned dty), none)
    else (intOfBits dty (wrapInt v (tyBits dty)), none)
  | false, true => (((fmtOfTy dty).round mode sat (intVal (cvtInt sty x)) : Nat), none)
  | true, true => (((fmtOfTy dty).round mode sat ((fmtOfTy sty).decode x) : Nat), none)
  | true, false =>
    let (v, flag) := toIntFlag mode ((fmtOfTy sty).decode x) (intLo dty) (intHi dty)
    (v, some flag)
where
  /-- The bits of an integer type read by its signedness. -/
  intOfBits (ty : BitVec 4) (b : Nat) : Int := if intSigned ty then signExtend b (tyBits ty) else (b : Int)

/-- CVT between typed formats (R134, R358). -/
def execCvt (c : Ctl) (f : RRR) (s : State) : Host.Outcome State Fault Refusal :=
  regWord c s fun _ t =>
    let sty : BitVec 4 := f.md.extractLsb' 3 4
    let (v, flag) := convert f.ty sty (fRnd f) (fSat f) (cvtRaw sty f.a t)
    let t1 := if tyBits f.ty = 64 then t.setPair f.d.toNat (BitVec.ofInt 64 v) else t.setReg f.d.toNat (BitVec.ofInt 32 v)
    match flag with
    | some b => t1.setPred f.b.toNat b
    | none => t1

/-- The format slot of the launch (R122). -/
def Block.slot (b : Block) (i : Nat) : Slot := slotOf (b.rec_.slots.getD i 0)

/-- CVT.pk: encodes a binary32 value into a slot's format (R135, R359). -/
def execCvtPk (c : Ctl) (f : RRR) (s : State) : Host.Outcome State Fault Refusal :=
  regWord c s fun e t => t.setReg f.d.toNat (BitVec.ofNat 32 (encodeFormat (e.blk.slot (f.md.toNat % 8)) (f32 (t.reg f.a.toNat))))

/-- CVT.up: decodes a slot's format to binary32 (R135, R359). -/
def execCvtUp (c : Ctl) (f : RRR) (s : State) : Host.Outcome State Fault Refusal :=
  regWord c s fun e t =>
    t.setReg f.d.toNat (f32Round false (decodeFormat (e.blk.slot (f.md.toNat % 8)) (t.reg f.a.toNat).toNat))

end Sys2Proof.Machine
end

