-- ==== Sys2Proof/Machine/Aes.lean ====
section
/-! DEFINITION. AES-XTS-256 as published (FIPS 197, IEEE 1619), which R194 names for data at rest (log entry 9). Blocks are lists
of 16 bytes in the order of memory. -/

namespace Sys2Proof.Machine

open Sys2Proof

/-- The AES substitution table, byte x at bits [8x+7:8x]. -/
def aesSbox : Nat :=
  0x16BB54B00F2D99416842E6BF0D89A18CDF2855CEE9871E9B948ED9691198F8E19E1DC186B95735610EF6034866B53E708A8BBD4B1F74DDE8C6B4A61C2E2578BA08AE7A65EAF4566CA94ED58D6D37C8E779E4959162ACD3C25C2406490A3A32E0DB0B5EDE14B8EE4688902A22DC4F816073195D643D7EA7C41744975FEC130CCDD2F3FF1021DAB6BCF5389D928F40A351A89F3C507F02F94585334D43FBAAEFD0CF584C4A39BECB6A5BB1FC20ED00D153842FE329B3D63B52A05A6E1B1A2C830975B227EBE28012079A059618C323C7041531D871F1E5A534CCF73F362693FDB7C072A49CAFA2D4ADF04759FA7DC982CA76ABD7FE2B670130C56F6BF27B777C63

/-- The inverse substitution table. -/
def aesInvSbox : Nat :=
  0x7D0C2155631469E126D677BA7E042B17619953833CBBEBC8B0F52AAE4D3BE0A0EF9CC9939F7AE52D0D4AB519A97F51605FEC8027591012B131C7078833A8DD1FF45ACD78FEC0DB9A2079D2C64B3E56FC1BBE18AA0E62B76F89C5291D711AF1476EDF751CE837F9E28535ADE72274AC9673E6B4F0CECFF297EADC674F4111913A6B8A130103BDAFC1020F3FCA8F1E2CD00645B3B80558E4F70AD3BC8C00ABD890849D8DA75746155EDAB9EDFD5048706C92B6655DCC5CA4D41698688664F6F87225D18B6D49A25B76B224D92866A12E084EC3FA420B954CEE3D23C2A632947B54CBE9DEC444438E3487FF2F9B8239E37CFBD7F3819EA340BF38A53630D56A0952

/-- One substitution. -/
def aesSub (t : Nat) (b : Byte) : Byte := BitVec.ofNat 8 (t >>> (8 * b.toNat))

/-- Multiplication by x in the AES field. -/
def aesX (b : Byte) : Byte := if b.getLsbD 7 then (b <<< 1) ^^^ 0x1B else b <<< 1

/-- Multiplication by a constant of the AES field whose bits are `k` (below 16). -/
def aesMul (k : Nat) (b : Byte) : Byte :=
  let b2 := aesX b
  let b4 := aesX b2
  let b8 := aesX b4
  (if k.testBit 0 then b else 0) ^^^ (if k.testBit 1 then b2 else 0) ^^^ (if k.testBit 2 then b4 else 0) ^^^ (if k.testBit 3 then b8 else 0)

/-- Bytewise exclusive or. -/
def xorBytes (a b : List Byte) : List Byte := a.zipWith (· ^^^ ·) b

/-- The next words of the key schedule, newest first: `i` is the number of the next word, `n` words are still to come. -/
def aesExpand (ws : List (List Byte)) (i : Nat) (rc : Byte) (n : Nat) : List (List Byte) :=
  match n with
  | 0 => ws
  | k + 1 =>
    let last := ws.headD []
    let back := ws.getD 7 []
    if i % 8 = 0 then
      let t := (last.drop 1 ++ last.take 1).map (aesSub aesSbox)
      aesExpand (xorBytes back (xorBytes t [rc, 0, 0, 0]) :: ws) (i + 1) (aesX rc) k
    else if i % 8 = 4 then aesExpand (xorBytes back (last.map (aesSub aesSbox)) :: ws) (i + 1) rc k
    else aesExpand (xorBytes back last :: ws) (i + 1) rc k

/-- Cuts a list into pieces of `n`. -/
def pieces {α : Type} (n : Nat) (l : List α) (fuel : Nat) : List (List α) :=
  match fuel with
  | 0 => []
  | k + 1 => if l.isEmpty then [] else l.take n :: pieces n (l.drop n) k

/-- The fifteen round keys of a 32-byte key. -/
def aesKeys (key : List Byte) : List (List Byte) :=
  (pieces 4 (aesExpand (pieces 4 key 8).reverse 8 1 52).reverse 15).map List.flatten

/-- Row shifts: byte r + 4c comes from column c + r (forward) or c - r. -/
def aesShift (fwd : Bool) (s : List Byte) : List Byte :=
  (List.range 16).map fun i => s.getD ((i % 4) + 4 * ((i / 4 + (if fwd then i % 4 else 4 - i % 4)) % 4)) 0

/-- Column mixing by the circulant row `k`. -/
def aesMix (k : List Nat) (s : List Byte) : List Byte :=
  (List.range 16).map fun i =>
    (List.range 4).foldl (fun a j => a ^^^ aesMul (k.getD ((j + 4 - i % 4) % 4) 0) (s.getD (4 * (i / 4) + j) 0)) 0

/-- AES-256 encryption of one block. (PRESUMED, log entry 9.) -/
def aesEnc (keys : List (List Byte)) (s : List Byte) : List Byte :=
  let s0 := xorBytes s (keys.headD [])
  let mid := (keys.drop 1).dropLast
  let s1 := mid.foldl (fun x k => xorBytes (aesMix [2, 3, 1, 1] (aesShift true (x.map (aesSub aesSbox)))) k) s0
  xorBytes (aesShift true (s1.map (aesSub aesSbox))) (keys.getLastD [])

/-- AES-256 decryption of one block. (PRESUMED, log entry 9.) -/
def aesDec (keys : List (List Byte)) (s : List Byte) : List Byte :=
  let s0 := xorBytes s (keys.getLastD [])
  let mid := (keys.drop 1).dropLast.reverse
  let s1 := mid.foldl (fun x k => aesMix [14, 11, 13, 9] (xorBytes ((aesShift false x).map (aesSub aesInvSbox)) k)) s0
  xorBytes ((aesShift false s1).map (aesSub aesInvSbox)) (keys.headD [])

/-- The tweak of the next block: multiplication by x in GF(2^128), little-endian. -/
def xtsNext (t : List Byte) : List Byte :=
  let v := ofBytes t
  let d := 2 * v
  toBytes 16 (if 2 ^ 128 ≤ d then (d % 2 ^ 128) ^^^ 0x87 else d)

/-- One block under a tweak. -/
def xtsBlock (enc : Bool) (keys : List (List Byte)) (t s : List Byte) : List Byte :=
  xorBytes (if enc then aesEnc keys (xorBytes s t) else aesDec keys (xorBytes s t)) t

/-- A 32-byte sector encrypted or decrypted under a key's 64 bytes and the tweak number (R194, R333). -/
def xtsSector (enc : Bool) (key : BitVec 512) (tweak : Nat) (s : List Byte) : List Byte :=
  let kb := toBytes 64 key.toNat
  let dk := aesKeys (kb.take 32)
  let t0 := aesEnc (aesKeys (kb.drop 32)) (toBytes 16 tweak)
  xtsBlock enc dk t0 (s.take 16) ++ xtsBlock enc dk (xtsNext t0) (s.drop 16)

end Sys2Proof.Machine
end

