-- ==== Sys2Proof/Machine/Home.lean ====
section
/-! DEFINITION. Memory at its homes: data at rest and its encryption (R194, R195), the L2 slices (R174), the directory's view of
stash-owned words (R150 to R154), watches (R316 to R319, R431), the alias detector and page heat (R183 to R188), compressed pages
(R185, R189 to R191), and one request at a home slice (R151). -/

namespace Sys2Proof.Machine

open Sys2Proof

/-! ### Locations: apt · 2^52 + physical address (R165, R169) -/

/-- A location is device memory: of this or of another pod device. (DEDUCED, log entry 77.) -/
def isDevLoc (loc : Nat) : Bool := loc < 2 ^ 52

/-- The host port of a host location (R169). (DEDUCED, log entry 63; DEDUCED, log entry 77.) -/
def portOf (loc : Nat) : Nat := loc / 2 ^ 52 - 1

/-- The pod number of a device location (R165). -/
def podOf (loc : Nat) : Nat := loc % 2 ^ 52 / 2 ^ 40

/-- The location is homed on this device (R165). -/
def Dev.isLocal (m : Dev) (loc : Nat) : Bool := isDevLoc loc && podOf loc == m.mgmt.podDev

/-- The exclusive or of R166 and R167. -/
def sliceHash (d : Nat) : Nat := bitsOf d 9 5 ^^^ bitsOf d 14 5 ^^^ bitsOf d 19 5

/-- The home die of a location, or the die of the slice that caches it (R21, R167). -/
def Dev.dieOfLoc (m : Dev) (ft : Features) (loc : Nat) : Nat :=
  if m.isLocal loc then min 3 (loc % 2 ^ 40 / ft.dieSpan) else bitsOf loc 21 2

/-- The number of the home slice within its die (R166, R167). -/
def Dev.sliceOfLoc (m : Dev) (ft : Features) (loc : Nat) : Nat :=
  if m.isLocal loc then sliceHash (loc % 2 ^ 40 - m.dieOfLoc ft loc * ft.dieSpan) else sliceHash (loc % 2 ^ 52)

/-- The HBM stack that backs a local offset (R166). -/
def stackOf (ft : Features) (o : Nat) : Nat :=
  let die := o / ft.dieSpan
  let d := o % ft.dieSpan
  match ft.part with
  | .g4x => 3 * die + d / 4096 % 3
  | .g4h => 2 * die + d / 4096 % 2

/-! ### Outstanding accesses, as the home slices meet them -/

/-- A store performed at core scope and not yet at its home (R200). (DESIGN CHOICE, log entry 28.) -/
def Access.coreDone (a : Access) : Bool := a.early.isSome

/-- Some core's store that is performed at core scope and not yet at its home overlaps, by its offset in a page, the bytes read or
written (R200, R201): loads and stores of that core wait for it. (DESIGN CHOICE, log entry 28.) -/
def Core.storesAhead (c : Core) (va n : Nat) : Bool :=
  c.accs.any fun a => a.coreDone && a.va.toNat % 4096 < va % 4096 + n && va % 4096 < a.va.toNat % 4096 + a.n

/-- Requests of the core that are outstanding (R19, R176): those of accesses that have left the core, one for each line of 128 bytes that the words of
a filling segment occupy, one for each burst whose reply has not come, and those that waiting operations of its engines and hints hold. -/
def Core.requests (c : Core) : Nat :=
  (c.accs.filter fun a => match a.phase with | .new => false | .walk => false | _ => true).length +
    (c.comets.map fun r => (r.inFlight.filter fun x => !r.faulted.contains x).length).sum + (c.out.map fun x => x.2).sum +
    (c.skeins.map fun (_, e) => match e with
      | some s => (s.segs.map fun (_, g) => if g.st == .filling then (g.words.map fun w => w.pa / 128).eraseDups.length else 0).sum
      | none => 0).sum

/-! ### Data at rest (R194, R195) -/

/-- The tweak number of a sector: bits [51:5] of its canonical physical address (R194). (PRESUMED, log entry 9.) -/
def tweakOf (loc : Nat) : Nat := loc % 2 ^ 52 / 32

/-- The bytes of a key; of an erased one those that it had, for the lines still cached under it (R195, R333). -/
def Dev.keyBits (m : Dev) (key : Nat) : BitVec 512 := ((mget none m.mgmt.keys key).or (mget none m.mgmt.erased key)).getD 0

/-- The plaintext of the sector that holds a location. -/
def Dev.sector (m : Dev) (key loc : Nat) : List Byte :=
  let base := loc / 32 * 32
  let raw := Memory.read m.mem base 32
  if key = 0 then raw else xtsSector false (m.keyBits key) (tweakOf base) raw

/-- The plaintext of a byte at rest. -/
def Dev.restByte (m : Dev) (key loc : Nat) : Byte :=
  if key = 0 then Memory.byte m.mem loc else (m.sector key loc).getD (loc % 32) 0

/-- Writes a byte at rest, its sector encrypted again. -/
def Dev.putRest (m : Dev) (key loc : Nat) (b : Byte) : Dev :=
  if key = 0 then { m with mem := Memory.setByte m.mem loc b }
  else
    let base := loc / 32 * 32
    let plain := (m.sector key loc).set (loc % 32) b
    { m with mem := Memory.write m.mem base (xtsSector true (m.keyBits key) (tweakOf base) plain) }

/-! ### L2 (R174) -/

/-- A byte that a slice holds dirty: memory behind a port or link. -/
def Dev.l2Byte (m : Dev) (loc : Nat) : Option Byte :=
  match mget none m.l2 (loc / 512) with
  | some b => mget none b.data loc
  | none => none

/-- The current value of a byte at its home slice, the stashes aside. -/
def Dev.homeByte (m : Dev) (key loc : Nat) : Byte := (m.l2Byte loc).getD (m.restByte key loc)

/-- The current value of `n` bytes at their home slice. -/
def Dev.homeBytes (m : Dev) (key loc n : Nat) : List Byte := (List.range n).map fun i => m.homeByte key (loc + i)

/-- The lost port (0, 1) or link (2 and up) that a location lies behind (R327, R329, R331). -/
def Dev.lostBehind (m : Dev) (loc : Nat) : Option Nat :=
  if m.isLocal loc then none
  else if isDevLoc loc then
    match mget none m.mgmt.routes (podOf loc) with
    | some l =>
      if (mget Fresh.link m.mgmt.links l).st == .up && !m.mgmt.routesLost.contains (podOf loc) && !m.mgmt.pathLost.contains (podOf loc) then none else some (2 + l)
    | none => none
  else if (if portOf loc = 0 then m.mgmt.port0 else m.mgmt.port1) == .up then none
  else some (portOf loc)

/-- A block that a slice does not hold yet. -/
def newL2 (cls asid key : Nat) : L2Block :=
  { cls := cls, asid := asid, key := key, sectors := [], data := [], stranded := [], port := 0, strm := [], keep := [] }

/-- A location lies in a stranded line of the block (R327). -/
def L2Block.strandedLoc (b : L2Block) (loc : Nat) : Bool := b.stranded.any fun x => x.1 == loc / 128

/-- A block's dirty bytes go to its memory (R175, R195), but for those of its stranded lines (R328). -/
def Dev.flushL2 (m : Dev) (blk : Nat) : Dev :=
  match mget none m.l2 blk with
  | none => m
  | some b =>
    let m1 := b.data.foldl (fun (x : Dev) e =>
      match e.2 with | some v => if b.strandedLoc e.1 then x else x.putRest b.key e.1 v | none => x) m
    { m1 with l2 := mput none m1.l2 blk (some { b with data := b.data.filter fun e => b.strandedLoc e.1 }) }

/-- A slice gives a block up: its dirty bytes go to memory, and its stranded lines stay (R328). -/
def Dev.dropL2 (m : Dev) (blk : Nat) : Dev :=
  let m1 := m.flushL2 blk
  { m1 with
    l2 := mput none m1.l2 blk ((mget none m1.l2 blk).bind fun b => if b.stranded.isEmpty then none else some { b with sectors := [] })
    podOwns := m1.podOwns.filter (· != blk) }

/-- L2 takes a byte as dirty into the block that holds it, its dirty bytes of another key being written back first. -/
def Dev.dirtyL2 (m : Dev) (cc key loc : Nat) (b : Byte) (lost : Option Nat) : Dev :=
  let m1 := match mget none m.l2 (loc / 512) with | some x => if x.key != key then m.flushL2 (loc / 512) else m | none => m
  let blk := (mget none m1.l2 (loc / 512)).getD (newL2 cc 0 key)
  let lines := if lost.isSome && !blk.strandedLoc loc then blk.stranded ++ [(loc / 128, key)] else blk.stranded
  { m1 with l2 := mput none m1.l2 (loc / 512) (some
      { blk with key := key, data := mput none blk.data loc (some b), stranded := lines, port := lost.getD blk.port }) }

/-- A slice owns the line of another pod device's memory that it is to hold dirty: it has asked the owner for it (R330; DESIGN CHOICE, log entry 110). -/
def Dev.ownPod (m : Dev) (loc : Nat) : Dev :=
  if !isDevLoc loc || m.isLocal loc || m.podOwns.contains (loc / 512) then m
  else { m with podOwns := loc / 512 :: m.podOwns, podAsks := m.podAsks ++ [(podOf loc, loc / 512)] }

/-- Writes a byte at its home slice (R174): as dirty where the slice holds the block, or where the memory lies behind a port or link; into memory where
no slice holds the block, and for untracked pages over the link. What reaches a slice for memory behind a lost link is stranded there (R327); an untracked
byte, which no slice holds (R323), is lost with the link. (DESIGN CHOICE, log entry 10.) -/
def Dev.putHome (m : Dev) (cc key loc : Nat) (b : Byte) : Dev :=
  let lost := m.lostBehind loc
  if !m.isLocal loc && cc == 3 then (if lost.isSome then m else m.putRest key loc b)
  else if m.isLocal loc && (mget none m.l2 (loc / 512)).isNone then m.putRest key loc b
  else (m.ownPod loc).dirtyL2 cc key loc b lost

/-- A write recalls the copies that slices of other pod devices may hold (R330; DESIGN CHOICE, log entry 110). -/
def Dev.recallPods (m : Dev) (loc n : Nat) : Dev :=
  let hit (x : Nat × Nat) : Bool := loc / 512 ≤ x.2 && x.2 ≤ (loc + n - 1) / 512
  if m.podHeld.any hit then { m with podHeld := m.podHeld.filter (fun x => !hit x), podRecalls := m.podRecalls ++ m.podHeld.filter hit } else m

/-- Writes bytes at their home slice; the poison of overwritten bytes goes, and their copies in slices of other dies. -/
def Dev.writeHome (m : Dev) (cc key loc : Nat) (l : List Byte) : Dev :=
  match l with
  | [] => m
  | b :: r =>
    Dev.writeHome ({ m with poisoned := m.poisoned.filter (· != loc), far := m.far.filter fun x => x.1 % 2 ^ 64 != loc }.putHome cc key loc b)
      cc key (loc + 1) r

/-! ### Compressed pages (R189 to R191) -/

/-- A block from its slot: raw, or the mask and the non-zero words in ascending order (R190); a word that the mask names and the slot has no room
for is a free value. (DESIGN CHOICE, log entry 78.) -/
def unpackBlock (size entry : Nat) (slot : List Byte) : List Byte :=
  if size = 3 then slot
  else
    let mask := ofBytes (slot.take 16)
    ((List.range 128).foldl (fun (a : List Byte × List Byte) i =>
      if mask.testBit i then
        (a.1 ++ (if a.2.isEmpty then toBytes 4 (Config.freeWord (2 ^ 40 + 128 * entry + i)).toNat else a.2.take 4), a.2.drop 4)
      else (a.1 ++ [0, 0, 0, 0], a.2)) ([], slot.drop 16)).1

/-- The words of a block that are not zero, as a mask (R190). -/
def blockMask (blk : List Byte) : Nat :=
  (List.range 128).foldl (fun a i => if (blk.drop (4 * i)).take 4 == [0, 0, 0, 0] then a else a + 2 ^ i) 0

/-- The size code that a block needs (R190). -/
def blockNeed (blk : List Byte) : Nat := min 3 ((16 + 4 * ((List.range 128).filter fun i => (blockMask blk).testBit i).length + 127) / 128 - 1)

/-- Pack (R190): the slot's bytes for a block whose need does not exceed `size`. -/
def packBlock (size : Nat) (blk : List Byte) : List Byte :=
  if size = 3 then blk
  else
    let mask := blockMask blk
    let out := toBytes 16 mask ++ ((List.range 128).filter fun i => mask.testBit i).flatMap fun i => (blk.drop (4 * i)).take 4
    out ++ List.replicate ((size + 1) * 128 - out.length) 0

/-- The slot that a block-table entry, read in plaintext, names: its location, its size code, the entry (R189). (DEDUCED, log entry 42.) -/
def Dev.compSlot (m : Dev) (entry : Nat) : Nat × Nat × Nat :=
  let e := ofBytes (m.homeBytes 0 entry 8)
  (entry / 2 ^ 52 * 2 ^ 52 + e % 2 ^ 52 / 128 * 128, e % 4, e)

/-- The block that an entry describes, decompressed (R190, R191). -/
def Dev.compBlock (m : Dev) (key entry : Nat) : List Byte :=
  let (slot, size, _) := m.compSlot entry
  unpackBlock size entry (m.homeBytes key slot ((size + 1) * 128))

/-- The block with bytes stored at an offset. -/
def compWith (blk : List Byte) (off : Nat) (l : List Byte) : List Byte := blk.take off ++ l ++ blk.drop (off + l.length)

/-- The block still fits its slot with a store applied (R191). (DESIGN CHOICE, log entry 79.) -/
def Dev.compFits (m : Dev) (key entry off : Nat) (l : List Byte) : Bool :=
  blockNeed (compWith (m.compBlock key entry) off l) ≤ (m.compSlot entry).2.1

/-- The whole slot is written with a store applied that fits it (R190, R191). -/
def Dev.compPut (m : Dev) (key entry off : Nat) (l : List Byte) : Dev :=
  let (slot, size, _) := m.compSlot entry
  m.writeHome 3 key slot (packBlock size (compWith (m.compBlock key entry) off l))

/-! ### Words held by stashes (R149 to R152) -/

/-- A registered word: its core, entry, segment and record. -/
structure Holder where
  core : Nat
  entry : Nat
  seg : Nat
  word : SkWord
  deriving DecidableEq, Repr

/-- The mark of a poisoned stash byte of a core (R327). (DEDUCED, log entry 77.) -/
def stashLoc (core x : Nat) : Nat := 2 ^ 60 + core * 2 ^ 20 + x

/-- Stash bytes of a core take new values: their poison goes. -/
def Dev.cleanStash (m : Dev) (core x n : Nat) : Dev :=
  { m with poisoned := m.poisoned.filter fun a => !(stashLoc core x ≤ a && a < stashLoc core x + n) }

/-- Every selected word that some segment holds. -/
def Dev.heldWords (m : Dev) : List Holder :=
  m.cores.flatMap fun (i, c) => c.skeins.flatMap fun (k, e) =>
    match e with
    | none => []
    | some s => s.segs.flatMap fun (j, g) => g.words.map fun w => { core := i, entry := k, seg := j, word := w }

/-- The words registered with a home that share a byte with [loc, loc + n) (R150). -/
def Dev.holders (m : Dev) (loc n : Nat) : List Holder :=
  m.heldWords.filter fun h => (h.word.owner || h.word.sharer) && h.word.pa < loc + n && loc < h.word.pa + 4

/-- Changes a segment of an entry. -/
def Dev.modSeg (m : Dev) (core k s : Nat) (f : Seg → Seg) : Dev :=
  m.modCore core fun c =>
    match mget none c.skeins k with
    | none => c
    | some e =>
      let g := mget { st := .unfilled, words := [], wb := none } e.segs s
      { c with skeins := mput none c.skeins k (some { e with segs := mput { st := .unfilled, words := [], wb := none } e.segs s (f g) }) }

/-- An unfilled segment. -/
def unfilledSeg : Seg := { st := .unfilled, words := [], wb := none }

/-- A segment of an entry (R146). -/
def Dev.seg (m : Dev) (core k s : Nat) : Seg :=
  match mget none (m.core core).skeins k with
  | none => unfilledSeg
  | some e => mget unfilledSeg e.segs s

/-- The dirty words of a segment with their bytes: what its write-back carries (R154). -/
def Dev.segData (m : Dev) (core k s : Nat) : List (SkWord × List Byte) :=
  ((m.seg core k s).words.filter fun w => w.dirty).map fun w =>
    ({ w with bad := (List.range 4).filter fun i => m.poisoned.contains (stashLoc core (w.at_ + i)) }, mreadBytes (m.core core).stash w.at_ 4)

/-- A word's write-back data from a stash of `core` reaches its home slice, and every read sees it (R155): the copies in the core's own L1 and
the clean ones elsewhere are given up. (DEDUCED, log entry 30.) A word of a compressed page goes into its block's slot, and is not applied where the
block would no longer fit it, or its entry has become a reserved one (R189, R191; DESIGN CHOICE, log entry 79). Poisoned bytes stay poisoned at home, those of
a compressed page with their slot (R296, R327). -/
def Dev.wordHome (m : Dev) (core : Nat) (w : SkWord) (l : List Byte) : Dev :=
  let stale (i : Nat) (e : Nat × Option L1Byte) : Bool :=
    w.pa ≤ e.1 && e.1 < w.pa + l.length && (i == core || !(match e.2 with | some y => y.dirty | none => false))
  let mark (x : Dev) (bad : List Nat) : Dev := { x with poisoned := x.poisoned ++ bad.filter fun a => !x.poisoned.contains a }
  let m1 := match w.comp with
    | some (e, off) =>
      if (m.compSlot e).2.2 < 2 ^ 52 && m.compFits w.key e off l then
        mark (m.compPut w.key e off l) (if w.bad.isEmpty then [] else (List.range (((m.compSlot e).2.1 + 1) * 128)).map fun i => (m.compSlot e).1 + i)
      else m
    | none => mark (m.writeHome w.cc w.key w.pa l) (w.bad.map fun i => w.pa + i)
  { m1 with cores := m1.cores.map fun (x : Nat × Core) => (x.1, { x.2 with l1 := x.2.l1.filter fun e => !stale x.1 e }) }

/-- Write-back data reaches the home slices (R154, R155). (DEDUCED, log entry 30.) -/
def Dev.putBack (m : Dev) (core : Nat) (d : List (SkWord × List Byte)) : Dev := d.foldl (fun x e => x.wordHome core e.1 e.2) m

/-- The home recalls a segment: its dirty words are written back and it returns to Unfilled (R150); a segment that is Filling or has
write-back data on its way holds the request (R152). -/
def recallSeg (core k s : Nat) : Act Unit := do
  let m ← get
  let g := m.seg core k s
  if g.st == .filling || g.st == .retiring || g.wb.isSome then actWait
  else set ((m.putBack core (m.segData core k s)).modSeg core k s fun _ => unfilledSeg)

/-- Recalls every segment in a list of holders. -/
def recallAll (hs : List Holder) : Act Unit := do
  for h in hs do
    let m ← get
    if (m.seg h.core h.entry h.seg).words.any (fun w => w.pa == h.word.pa) then recallSeg h.core h.entry h.seg

/-! ### Agents, watches (R316 to R319, R431) -/

/-- An agent: its code (R319), its ASID or 0xFFFF_FFFF, and what its faults are charged to where it is an engine or a thread. -/
structure Agent where
  code : Nat
  asid : Nat
  charge : Option Charge
  /-- For a prefetch hint, one more than its number: its requests are its own (R19). -/
  hint : Nat := 0
  deriving DecidableEq, Repr

/-- Agents outside the device: a host port, a pod device (R319). -/
def hostAgent (port : Nat) : Agent := { code := 3 * 2 ^ 13 + port, asid := 0xFFFFFFFF, charge := none }
def podAgent (dev : Nat) : Agent := { code := 4 * 2 ^ 13 + dev, asid := 0xFFFFFFFF, charge := none }

/-- An agent outside the cores (R319). -/
def OutsideAgent.agent (a : OutsideAgent) : Agent :=
  match a with
  | .host p => hostAgent p
  | .pod d => podAgent d
  | .hart n => { code := 5 * 2 ^ 13 + n, asid := 0xFFFFFFFF, charge := none }

/-- A thread, a core engine, the graph walker (R319). -/
def threadAgent (asid : Nat) (c : Charge) : Agent := { code := c.core, asid := asid, charge := some c }
def engineAgent (asid : Nat) (c : Charge) : Agent := { code := 2 ^ 13 + c.core, asid := asid, charge := some c }
def walkerAgent (asid : Nat) (c : Charge) : Agent := { code := 2 * 2 ^ 13, asid := asid, charge := some c }

/-- The core whose agent this is; a number that no core has for the others. -/
def Agent.core (a : Agent) : Nat := if a.code < 2 ^ 14 then a.code % 2 ^ 13 else 2 ^ 13

/-- The requester that an engine's operation is to the home slices (R180). -/
def Agent.requester (a : Agent) : Requester :=
  match a.charge with
  | some c =>
    { core := c.core, unit := 8 + c.engine.code, asid := a.asid
      id := (((c.op * 2 ^ 11 + c.slot) * 2 ^ 64 + c.addr.toNat) * 2 ^ 32 + c.info0.toNat) * 2 ^ 32 + c.info1.toNat }
  | none => { core := a.core, unit := 7, asid := a.asid, id := a.code + 2 ^ 16 * a.hint }

/-- The bytes a watchpoint covers: base and length, the base aligned down (R316). (DEDUCED, log entry 44.) -/
def Watchpoint.range (w : Watchpoint) : Nat × Nat :=
  let len := 2 ^ (w.sz + 3)
  (w.pa.toNat % 2 ^ 52 / len * len, len)

/-- The lowest watched byte among [loc, loc + n), by its physical address. (DEDUCED, log entry 44.) -/
def Watchpoint.hit (w : Watchpoint) (loc n : Nat) : Option Nat :=
  let (b, len) := w.range
  let a := loc % 2 ^ 52
  if w.en && loc < 2 ^ 57 && a < b + len && b < a + n then some (max a b) else none

/-- Entries that the queue has still to take: those that wait to be written, but for those that wait only for a tag (R300, R302). -/
def Context.queued (c : Context) : Nat :=
  (c.waiting.filter fun f => f.susp.isNone).length + min (c.waiting.filter fun f => f.susp.isSome).length (65535 - c.tagged.length)

/-- A watchpoint hit: its entry, which halts the owning context where HALT is set, or counts as lost where the queue is full (R318).
(DEDUCED, log entry 45.) -/
def Context.watchHit (c : Context) (w : Watchpoint) (pa : Nat) (ag : Agent) (cyc : DWord) : Context :=
  let ch : Charge := ag.charge.getD { engine := .simt, core := 0, slot := 0, addr := 0, word := 0, info0 := 0, info1 := 0 }
  let f : FaultInfo :=
    { op := ch.op, cause := 0x1E, engine := ch.engine, nr := w.halt, core := ch.core, slot := ch.slot, va := 0, addr := ch.addr, word := ch.word,
      info0 := BitVec.ofNat 32 ag.code, info1 := BitVec.ofNat 32 ag.asid, pa := pa, field := 0, wr := true, alias_ := false, cyc := cyc, pos := ch.info0,
      susp := none }
  if w.halt then c.raise f
  else if 256 ≤ (c.fqTail - c.fqHead).toNat + c.queued then { c with wpLost := min 0xFFFFFFFF (c.wpLost + 1) }
  else c.raise f

/-- Every context's watchpoints see a write (R317). (DEDUCED, log entry 45.) -/
def Dev.watch (m : Dev) (ag : Agent) (loc n : Nat) : Dev :=
  let cyc : DWord := match ag.charge with | some ch => if ch.engine == .walker then 0 else (m.core ch.core).cyc | none => 0
  { m with ctxs := m.ctxs.map fun (a, c) => (a, c.map fun x =>
      x.wps.foldl (fun y w => match w.2.hit loc n with | some pa => y.watchHit w.2 pa ag cyc | none => y) x) }

/-- A parked WAITM thread that watches a byte of [loc, loc + n) is woken to read again (R431). -/
def Thread.wakeAt (t : Thread) (loc n : Nat) : Thread :=
  match t.watch with
  | some w =>
    match w.at_ with
    | some l => if l < loc + n && loc < l + w.n then { t with watch := some { w with woken := true } } else t
    | none => t
  | none => t

/-- Changes every thread. -/
def Dev.mapThreads (m : Dev) (f : Thread → Thread) : Dev :=
  { m with cores := m.cores.map fun (i, c) => (i, { c with blocks := c.blocks.map fun b =>
      { b with threads := b.threads.map fun (s, t) => (s, f t) } }) }

/-- A write has been performed at a location: watchpoints and parked threads see it (R317, R431), and copies in other pod devices are recalled (R330). -/
def Dev.noteWrite (m : Dev) (ag : Agent) (loc n : Nat) : Dev := ((m.watch ag loc n).mapThreads fun t => t.wakeAt loc n).recallPods loc n

/-- Some enabled watch or parked WAITM thread covers a byte of the line of 128 bytes (R317). -/
def Dev.lineWatched (m : Dev) (loc : Nat) : Bool :=
  let l := loc / 128 * 128
  m.ctxs.any (fun (_, c) => (c.map fun x => x.wps.any fun w => (w.2.hit l 128).isSome).getD false) ||
    m.threads.any fun (_, _, _, t) => (t.watch.bind fun w => w.at_).any fun a => a / 128 == loc / 128

/-! ### Pages and requests -/

/-- What a translated access knows of its page (R169): address space, location of the first byte, class, grain, key, heat, and for a
compressed page the location of its block-table entry and the offset in the block. -/
structure Page where
  asid : Nat
  loc : Nat
  cc : Nat
  cg : Nat
  key : Nat
  hen : Bool
  hidx : Nat
  comp : Option (Nat × Nat)
  /-- A later part of a request that its home slice has met already (R176). -/
  seen : Bool := false
  deriving DecidableEq, Repr

/-- The bytes of a grain (R169, R179). -/
def grainSize (cg : Nat) : Nat := match cg with | 0 => 32 | 1 => 128 | _ => 512

/-- Two locations lie in one grain of a coherent page's size. -/
def Page.sameGrain (pg : Page) (loc : Nat) : Bool := loc / grainSize pg.cg == pg.loc / grainSize pg.cg

/-- What a request does at the home: load, store, or an indivisible read and write (none: no write). -/
inductive HomeOp where
  | load
  | store (l : List Byte)
  | rmw (f : Nat → Option Nat)

/-- The request writes, or may write. -/
def HomeOp.writes : HomeOp → Bool
  | .load => false
  | _ => true

/-- The link or port behind a location is up, and the pod's links beyond it (R6, R327, R329); a request that meets a lost one faults "link lost". -/
def Dev.linkUp (m : Dev) (ft : Features) (loc : Nat) : Bool :=
  if m.isLocal loc then true
  else if isDevLoc loc then
    ft.has 5 && !m.mgmt.routesLost.contains (podOf loc) && !m.mgmt.pathLost.contains (podOf loc) && (match mget none m.mgmt.routes (podOf loc) with
      | some l => (mget Fresh.link m.mgmt.links l).st == .up
      | none => false)
  else if portOf loc = 0 then m.mgmt.port0 == .up else m.mgmt.port1 == .up

/-- A byte of [loc, loc + n) lies in a stranded line of 128 bytes (R327). (DEDUCED, log entry 63.) -/
def Dev.strandedAt (m : Dev) (loc n : Nat) : Bool :=
  match mget none m.l2 (loc / 512) with
  | some b => b.stranded.any fun x => 128 * x.1 < loc + n && loc < 128 * x.1 + 128
  | none => false

/-- A read of [loc, loc + n) returns data marked poisoned (R296, R327). -/
def Dev.poisonedAt (m : Dev) (loc n : Nat) : Bool := m.poisoned.any (fun a => loc ≤ a && a < loc + n) || m.strandedAt loc n

/-- A local location is backed (R1, R165). -/
def Dev.backed (m : Dev) (ft : Features) (loc : Nat) : Bool := !m.isLocal loc || loc % 2 ^ 40 < 4 * ft.dieSpan

/-- One miss of a slice for a page under watch (R187); the increment joins the counter with the next fabric cycle (R188). -/
def DieCtl.miss (d : DieCtl) (slice hidx : Nat) : DieCtl :=
  let s := mget 0 d.missSeq slice
  let d1 := { d with missSeq := mput 0 d.missSeq slice (s + 1) }
  if s % 2 ^ d.kexp = 2 ^ d.kexp - 1 && !d.hclr then { d1 with heatNew := mput 0 d.heatNew hidx (mget 0 d.heatNew hidx + 1) } else d1

/-- A heat counter with the increments of this fabric cycle (R187). -/
def DieCtl.settleHeat (d : DieCtl) : DieCtl :=
  { d with heat := d.heatNew.foldl (fun h e => mput 0 h e.1 (min 0xFFFF (mget 0 h e.1 + e.2))) d.heat, heatNew := [] }

/-- Sectors of 32 bytes, by location, that [loc, loc + n) touches. -/
def sectorsAt (loc n : Nat) : List Nat := (List.range ((loc + n - 1) / 32 - loc / 32 + 1)).map fun i => loc / 32 + i

/-- A slice lacks a sector (R174). -/
def Dev.lacksSector (m : Dev) (sec : Nat) : Bool := match mget none m.l2 (sec / 16) with | some b => !b.sectors.contains (sec % 16) | none => true

/-- A slice takes a sector of a page into its tags (R174). -/
def Dev.takeSector (pg : Page) (m : Dev) (sec : Nat) : Dev :=
  if m.lacksSector sec then
    let b := (mget none m.l2 (sec / 16)).getD (newL2 pg.cc pg.asid pg.key)
    { m with l2 := mput none m.l2 (sec / 16) (some { b with sectors := b.sectors ++ [sec % 16] }) }
  else m

/-- One request's sectors enter the slice's tags; where it lacks one, the request is a miss (R174, R187). Untracked memory behind a port or link is never
held. (DESIGN CHOICE, log entry 10.) -/
def Dev.touchSectors (m : Dev) (ft : Features) (pg : Page) (secs : List Nat) : Dev :=
  if !secs.any m.lacksSector then m
  else
    let m1 := if !m.isLocal pg.loc && pg.cc == 3 then m else secs.foldl (Dev.takeSector pg) m
    let d := m.dieOfLoc ft pg.loc
    if pg.hen && (m1.die d).on then m1.modDie d fun x => x.miss (m.sliceOfLoc ft pg.loc) pg.hidx else m1

/-- The same for a request of `n` bytes from a page's location on. (DESIGN CHOICE, log entry 10.) -/
def Dev.touchL2 (m : Dev) (ft : Features) (pg : Page) (n : Nat) : Dev := m.touchSectors ft pg (sectorsAt pg.loc n)

/-- A hint marks a line of its block: first to evict, or retained (R403). -/
def Dev.markL2 (m : Dev) (line hint : Nat) : Dev :=
  let add (l : List Nat) : List Nat := if l.contains line then l else l ++ [line]
  if hint = 1 || hint = 2 then
    { m with l2 := mput none m.l2 (line / 4) ((mget none m.l2 (line / 4)).map fun b =>
        if hint = 1 then { b with strm := add b.strm, keep := b.keep.filter (· != line) } else { b with keep := add b.keep, strm := b.strm.filter (· != line) }) }
  else m

/-- L1 of some core holds a coherent byte of a block. -/
def Dev.l1Holds (m : Dev) (base len : Nat) : Bool :=
  m.cores.any fun (_, c) => c.l1.any fun (a, e) => base ≤ a && a < base + len && (match e with | some x => x.cc == 2 | none => false)

/-- The directory entry of the 512-byte block `k` is live: some stash, L1 or slice of another die holds some of it (R150, R179). -/
def Dev.dirLive (m : Dev) (k : Nat) : Bool :=
  !(m.holders (512 * k) 512).isEmpty || m.l1Holds (512 * k) 512 || m.far.any fun x => x.1 % 2 ^ 64 / 512 == k && x.2.any fun y => y.cc == 2

/-- The classes under which the live block `k`, and its live directory entry, were allocated (R183). -/
def Dev.classesAt (m : Dev) (k : Nat) : List Nat :=
  (match mget none m.l2 k with | some b => [b.cls] | none => []) ++ if m.dirLive k then [2] else []

/-- The class under which a live block, or a live directory entry, that a request of `n` bytes meets was allocated, where it differs from the request's as
R183 has it. -/
def Dev.aliasOld (m : Dev) (pg : Page) (n : Nat) : Option Nat :=
  let ks := (List.range ((pg.loc + n - 1) / 512 - pg.loc / 512 + 1)).map fun i => pg.loc / 512 + i
  (ks.flatMap m.classesAt).find? fun old => (old == 2) != (pg.cc == 2)

/-- The alias detector fires (R183, R184): the record, the interrupt, and with ALIASF the fault of the requesting context. -/
def Dev.aliasFire (m : Dev) (ft : Features) (ag : Agent) (pg : Page) (va : DWord) (wr : Bool) (old : Option Nat) : Dev :=
  match old with
  | none => m
  | some old =>
    let d := m.dieOfLoc ft pg.loc
    let c := m.die d
    let m1 := m.modDie d fun x =>
      if x.aliasValid then { x with aliasLost := min 0x7FFFFFFF (x.aliasLost + 1) }
      else { x with aliasValid := true, aliasPa := BitVec.ofNat 64 (pg.loc % 2 ^ 52 / 512 * 512), aliasAsid := pg.asid, aliasOld := old, aliasNew := pg.cc }
    let m2 := m1.interrupt (bitsOf m.mgmt.intVec.toNat 32 12)
    match ag.charge with
    | some ch =>
      if c.aliasf then m2.charge pg.asid ch { cause := 0x10, va := va, pa := pg.loc % 2 ^ 52, field := 0, wr := wr, alias_ := true } (.access 0 0)
      else m2
    | none => m2

/-! ### Lines of coherent pages in L1 (R173, R179) -/

/-- A byte of L1 that belongs to a coherent page and lies in [base, base + len). -/
def L1Byte.coherentIn (base len : Nat) (e : Nat × Option L1Byte) : Bool :=
  base ≤ e.1 && e.1 < base + len && (match e.2 with | some x => x.cc == 2 | none => false)

/-- The cores give back what their L1 holds of [base, base + len) of coherent pages, but for the core `keep`: dirty bytes go to the home slice, ownership
ends, and the copies go where the request invalidates them. -/
def Dev.giveBack (m : Dev) (base len keep : Nat) (inval : Bool) : Dev :=
  if !m.cores.any (fun (i, c) => i != keep && c.l1.any (L1Byte.coherentIn base len)) then m
  else
    let dirty := m.cores.flatMap fun (i, c) => if i == keep then [] else (c.l1.filter fun e => L1Byte.coherentIn base len e).filterMap fun (a, e) =>
      match e with | some x => if x.dirty then some (a, x) else none | none => none
    let m1 := dirty.foldl (fun (x : Dev) (p : Nat × L1Byte) => { x with poisoned := x.poisoned.filter (· != p.1) }.putHome 2 p.2.key p.1 p.2.b) m
    let clean (c : Core) : Core :=
      { c with l1 := if inval then c.l1.filter (fun e => !L1Byte.coherentIn base len e)
          else c.l1.map fun e => if L1Byte.coherentIn base len e then (e.1, e.2.map fun x => { x with dirty := false, own := false }) else e }
    { m1 with cores := m1.cores.map fun (p : Nat × Core) => (p.1, if p.1 == keep then p.2 else clean p.2) }

/-- Copies in the slices of other dies of [base, base + len) go (R150, R174). -/
def Dev.dropFarRun (m : Dev) (base len : Nat) : Dev :=
  if m.far.isEmpty then m else { m with far := m.far.filter fun x => !(base ≤ x.1 % 2 ^ 64 && x.1 % 2 ^ 64 < base + len) }

/-- An agent outside holds a block that another agent asks for: the host may hold a copy (R322), or another pod device owns it (R330). `but` names a pod device
whose own request this is. -/
def Dev.heldOutside (m : Dev) (but : Option Nat) (block : Nat) : Bool :=
  m.hostHeld.contains block || m.podOwned.any fun x => x.2.1 == block && some x.1 != but

/-- The host is snooped, where `host` says so, and the owning pod device asked, but for `but`, for a block; each once (R322, R330). -/
def Dev.askOwners (m : Dev) (host : Bool) (but : Option Nat) (block : Nat) : Dev :=
  let owner (x : Nat × Nat × Bool) : Bool := x.2.1 == block && some x.1 != but
  { m with
    snoops := if host && m.hostHeld.contains block && !m.snoops.contains block then block :: m.snoops else m.snoops
    podRecalls := m.podRecalls ++ (m.podOwned.filter fun x => owner x && !x.2.2).map fun x => (x.1, block)
    podOwned := m.podOwned.map fun x => if owner x then (x.1, block, true) else x }

/-- The host answers for a line of which it may hold a copy, and a pod device gives up a line that it owns, before a device agent has it (R322, R330). -/
def snoopHost (loc : Nat) : Act Unit := do
  let m ← get
  if m.heldOutside none (loc / 512) then
    set (m.askOwners true none (loc / 512))
    actWait

/-! ### Conflicts at the home (R180 to R182) -/

/-- The grain of a coherent page's request is held by a transaction in flight (R180). -/
def Dev.grainBusy (m : Dev) (pg : Page) : Bool := pg.cc == 2 && m.home.busy.any fun b => pg.sameGrain b

/-- A claim whose request is still there. (DEDUCED, log entry 71.) -/
def Dev.requesting (m : Dev) (x : Claim) : Bool :=
  if x.req.unit == 0 then (m.core x.req.core).accs.any fun a => a.id == x.req.id
  else m.home.refused.any (fun y => y.req == x.req && y.loc == x.loc) &&
    (x.req.unit != 7 || (m.core x.req.core).prefs.any fun p => p.org.id + 1 == x.req.id / 2 ^ 16)

/-- The requester for which the first of the claims on a grain reserves it (R181). -/
def Dev.reservedFor (m : Dev) (inGrain : Nat → Bool) : Option Requester :=
  (m.home.claims.find? fun x => inGrain x.loc && m.requesting x).map fun x => x.req

/-- The home refuses a request that would change the state of its grain: a transaction is in flight on it, it is reserved for another requester, or
an outside request for it waits, but for one that came after the grain had been reserved for this requester (R180 to R182). (DEDUCED, log entry 71.) -/
def Dev.refuses (m : Dev) (r : Requester) (pg : Page) : Bool :=
  let first := m.reservedFor pg.sameGrain
  pg.cc == 2 && (m.grainBusy pg || m.home.outside.any (fun x => pg.sameGrain x.loc && !(x.late == some r && first == some r)) || first.any fun x => x != r)

/-- The request would change the state of its grain: it writes, it takes a copy for L1 or a stash, or a core owns the grain (R180).
(DEDUCED, log entry 71.) -/
def Dev.changesGrain (m : Dev) (pg : Page) (takes : Bool) : Bool :=
  pg.cc == 2 && (takes || m.cores.any fun (_, c) => c.l1.any fun (a, e) => pg.sameGrain a && (match e with | some x => x.own | none => false))

/-- The wait before retry `j` (R180), in fabric cycles. -/
def backoff (j : Nat) : Nat := min (16 * 2 ^ (j - 1)) 4096

/-- A starving requester's claim joins those of its grain: after the earlier ones, among those of one fabric cycle by core number (R181). -/
def claimIn (l : List Claim) (x : Claim) : List Claim :=
  match l with
  | [] => [x]
  | y :: r => if y.fresh && x.req.core < y.req.core then x :: y :: r else y :: claimIn r x

/-- A retry that is refused after REFMAX refusals is marked as starving (R181). -/
def Dev.claim (m : Dev) (ft : Features) (r : Requester) (pg : Page) (refusals : Nat) : Dev :=
  if (m.die (m.dieOfLoc ft pg.loc)).refmax ≤ refusals && !m.home.claims.any (fun x => x.req == r && x.loc == pg.loc) then
    { m with home := { m.home with claims := claimIn m.home.claims { loc := pg.loc, req := r, fresh := true } } }
  else m

/-- A request is performed: its claim and its refusals are over. -/
def Dev.unclaim (m : Dev) (r : Requester) (loc : Nat) : Dev :=
  { m with home :=
      { m.home with
        claims := m.home.claims.filter (fun x => !(x.req == r && x.loc == loc)), refused := m.home.refused.filter fun x => !(x.req == r && x.loc == loc) } }

/-- A requester that waits for stores of its own core gives its claims up: those stores may need the grain (R181). (DEDUCED, log entry 71.) -/
def Dev.yieldClaims (m : Dev) (r : Requester) : Dev :=
  { m with home := { m.home with claims := m.home.claims.filter fun x => x.req != r } }

/-- The core's own stores to bytes that are performed at core scope have reached their home before an engine acts on the bytes (R200, R201). -/
def awaitStores (core : Nat) (r : Requester) (va n : Nat) : Act Unit := do
  let m ← get
  if (m.core core).storesAhead va n then
    set (m.yieldClaims r)
    actWait

/-- Requests of a context's engines on a core are forgotten, and its misses of the translation cache, which those that go on make anew: their operations are
discarded or stop (R176, R181). (DEDUCED, log entry 71.) -/
def Dev.forget (m : Dev) (core asid : Nat) (f : Requester → Bool) : Dev :=
  let mine (r : Requester) : Bool := r.core == core && r.asid == asid && r.unit != 0 && f r
  { m with home :=
      { m.home with claims := m.home.claims.filter (fun x => !mine x.req), refused := m.home.refused.filter fun x => !mine x.req } }.modCore core fun c =>
    { c with out := c.out.filter (fun x => !mine x.1), missed := c.missed.filter fun x => x.2.1 != asid }

/-- The number of the operation that an engine's request belongs to; of a fetch, a WAITM read or a launch item, the block's. -/
def Requester.op (r : Requester) : Nat := r.id / 2 ^ 139

/-- A requester's request asks its home slice, which may refuse it; it waits before its retry (R180, R181). -/
def askHomeAs (ft : Features) (r : Requester) (pg : Page) (takes : Bool) : Act Unit := do
  let m ← get
  let own (x : Refused) : Bool := x.req == r && x.loc == pg.loc
  let last := m.home.refused.find? own
  if last.any fun x => x.left != 0 then actWait
  if m.changesGrain pg takes && m.refuses r pg then
    let n := match last with | some x => x.count | none => 0
    let m1 := m.claim ft r pg n
    set { m1 with home :=
            { m1.home with refused := { req := r, loc := pg.loc, count := n + 1, left := backoff (n + 1) } :: m1.home.refused.filter fun x => !own x } }
    actWait

/-- An engine's request asks its home slice (R180, R181). -/
def askHome (ft : Features) (ag : Agent) (pg : Page) (takes : Bool) : Act Unit := askHomeAs ft ag.requester pg takes

/-- An engine's requests for grains ask their home slices, and an action performs them; a reservation lasts until then, or until the action faults
(R180, R181). -/
def atHome {α : Type} (ft : Features) (ag : Agent) (pgs : List Page) (takes : Bool) (a : Act α) : Act α := do
  let past (m : Dev) : Dev := pgs.foldl (fun x pg => x.unclaim ag.requester pg.loc) m
  for pg in pgs do
    askHome ft ag pg takes
  let v ← tryCatch a fun e => do
    match e with
    | .wait => pure ()
    | .flt _ => modify past
    throw e
  modify past
  return v

/-- The requests that an operation of a core's engines holds are given back (R176). -/
def Dev.freeRequests (m : Dev) (core : Nat) (r : Requester) : Dev :=
  if (m.core core).out.any fun x => x.1 == r then m.modCore core fun c => { c with out := c.out.filter fun x => x.1 != r } else m

/-- Hints of a core are discarded, with the requests that they hold (R405); so is a single PREF that still waits, uncounted (DESIGN CHOICE, log entry 123). -/
def Core.dropPrefs (c : Core) (f : PrefRun → Bool) : Core :=
  { c with
    prefs := c.prefs.filter fun p => !f p
    out := c.out.filter fun x => !(x.1.unit == 7 && c.prefs.any fun p => f p && x.1.id / 2 ^ 16 == p.org.id + 1) }

/-- A miss of a core's engine takes `n` of its outstanding requests while an action asks for the reply, and keeps them while the action waits; with too few
of them free, the engine waits (R19, R176). -/
def withRequests {α : Type} (core : Nat) (r : Requester) (n : Nat) (a : Act α) : Act α := do
  modify fun m => m.freeRequests core r
  let m ← get
  if 1024 < (m.core core).requests + n then actWait
  set (m.modCore core fun c => { c with out := (r, n) :: c.out })
  let v ← tryCatch a fun e => do
    match e with
    | .wait => pure ()
    | .flt _ => modify fun m => m.freeRequests core r
    throw e
  modify fun m => m.freeRequests core r
  return v

/-! ### Silent widening (R211 to R213) -/

/-- The cores whose earlier writes must be published before a read of these bytes by an agent of `core` is answered, with the number below which they were
performed at core scope (R211). (DEDUCED, log entry 72.) -/
def Dev.publishers (m : Dev) (core loc n : Nat) : List (Nat × Nat) :=
  ((List.range n).filterMap fun i => mget none m.marks (loc + i)).filter fun (c, s) =>
    c != core && (m.core c).accs.any fun x => match x.early with | some k => k < s | none => false

/-- The home sends forced publishes and holds the read until they are performed (R211, R213). (DEDUCED, log entry 72.) -/
def awaitPublish (core loc n : Nat) : Act Unit := do
  let m ← get
  let ps := m.publishers core loc n
  if !ps.isEmpty then
    set { m with home := { m.home with forced := ps ++ m.home.forced.filter fun x => !ps.contains x } }
    actWait

/-- The marks of a write: at or after a core-scope release, the core and the write's number (R211); else none. An atomic that goes on a release sequence
leaves the marks it finds. (DEDUCED, log entry 72.) -/
def Dev.setMarks (m : Dev) (loc n : Nat) (x : Option (Nat × Nat)) : Dev :=
  { m with marks := (List.range n).foldl (fun y i => mput none y (loc + i) x) m.marks }

/-! ### One request at a home slice -/

/-- The bytes of a request as the stashes, L1 and the home hold them: each byte from the stash that owns its word, else from the L1 that holds it dirty
under the directory. A segment that is Filling holds no data yet (R152). -/
def Dev.visible (m : Dev) (key loc n : Nat) : List Byte :=
  let hs := (m.holders loc n).filter fun h => h.word.owner && (m.seg h.core h.entry h.seg).st != .filling
  (List.range n).map fun i =>
    match hs.find? fun h => h.word.pa ≤ loc + i && loc + i < h.word.pa + 4 with
    | some h => mget 0 (m.core h.core).stash (h.word.at_ + (loc + i - h.word.pa))
    | none =>
      match m.cores.findSome? fun (_, c) => (mget none c.l1 (loc + i)).filter fun x => x.cc == 2 && x.dirty with
      | some x => x.b
      | none => m.homeByte key (loc + i)

/-- A forwarded store is applied in the stash, whose segment becomes Dirty (R151). -/
def Dev.forwardByte (m : Dev) (h : Holder) (loc : Nat) (b : Byte) : Dev :=
  let m1 := m.modCore h.core fun c => { c with stash := mput 0 c.stash (h.word.at_ + (loc - h.word.pa)) b }
  m1.modSeg h.core h.entry h.seg fun g =>
    { g with st := .dirty, words := g.words.map fun w => if w.pa == h.word.pa then { w with dirty := true, written := true } else w }

/-- A request is forwarded: all of its words are owned by one stash, and it is no atomic (R151). -/
def Dev.forwards (m : Dev) (loc n : Nat) (op : HomeOp) : Bool :=
  let owners := (m.holders loc n).filter fun h => h.word.owner
  let words := (loc + n - 1) / 4 - loc / 4 + 1
  (match owners with
    | [] => false
    | h :: _ => owners.length == words && owners.all (fun x => x.core == h.core)) && (match op with | .rmw _ => false | _ => true)

/-- What an operation leaves at the home, given the old bytes: the new bytes, or none where it writes nothing. -/
def HomeOp.new (op : HomeOp) (old : List Byte) (n : Nat) : Option (List Byte) :=
  match op with
  | .load => none
  | .store l => some l
  | .rmw f => (f (ofBytes old)).map (toBytes n)

/-- The operation reads. -/
def HomeOp.reads (op : HomeOp) : Bool := match op with | .store _ => false | _ => true

/-- The operation is performed on the bytes as the home slice holds them; a read of poisoned ones takes the fault `bad`, where there is one (R296). -/
def homePerform (cc key loc n : Nat) (op : HomeOp) (bad : Option Flt) : Act (List Byte) := do
  let m ← get
  match bad with
  | some f => if op.reads && m.poisonedAt loc n then actFault f
  | none => pure ()
  let old := m.homeBytes key loc n
  match op.new old n with
  | some l => set (m.writeHome cc key loc l)
  | none => pure ()
  return old

/-- A request at the home slice of tracked memory, or of an agent outside the device: forwarded to the one stash that owns all of its
words, performed at the home where no stash owns any, else after recalling every segment involved (R151); the L1 lines of other cores are given back
first (R179). The old bytes; what a stash answers is no poisoned byte of the home. -/
def homeServe (cc key loc n base len keep : Nat) (op : HomeOp) (bad : Option Flt) : Act (List Byte) := do
  let m ← get
  let hs := m.holders loc n
  let owners := hs.filter fun h => h.word.owner
  if m.forwards loc n op then
    for h in owners do
      let g := m.seg h.core h.entry h.seg
      if g.st == .filling || g.st == .retiring then actWait
    let old := m.visible key loc n
    match op with
    | .store l =>
      for (b, i) in l.zipIdx do
        for h in owners do
          if h.word.pa ≤ loc + i && loc + i < h.word.pa + 4 then modify fun x => x.forwardByte h (loc + i) b
    | _ => pure ()
    return old
  recallAll (if op.writes then hs else owners)
  modify fun m => m.giveBack base len keep op.writes
  homePerform cc key loc n op bad

/-- The grain of the live state of a 512-byte block: while its slice holds it as coherent, or its directory entry is live (R179). -/
def Dev.liveGrain (m : Dev) (k : Nat) : Option Nat :=
  if (match mget none m.l2 k with | some b => b.cls == 2 | none => false) || m.dirLive k then mget none m.grains k else none

/-- A request whose grain differs from that of the live state of its block: the home first recalls every holder of the block, and the new grain then
applies (R179). -/
def regrain (pg : Page) : Act Unit := do
  let m ← get
  let k := pg.loc / 512
  match m.liveGrain k with
  | some g =>
    if g != pg.cg then
      recallAll (m.holders (512 * k) 512)
      modify fun m => (m.giveBack (512 * k) 512 (2 ^ 13) true).dropFarRun (512 * k) 512
  | none => pure ()
  modify fun m => { m with grains := mput none m.grains k (some pg.cg) }

/-- The page of a request as its home slice meets it: of a compressed page the slot (R189). -/
def Dev.slotPage (m : Dev) (pg : Page) : Page :=
  match pg.comp with
  | some (e, _) => { pg with loc := (m.compSlot e).1 }
  | none => pg

/-- What a use of a compressed block may fault on: a poisoned entry, one with a reserved bit set, a poisoned slot (R189, R296). -/
def Dev.compCause (m : Dev) (entry : Nat) : Option Nat :=
  let (slot, size, e) := m.compSlot entry
  if m.poisonedAt entry 8 then some 0x1C
  else if 2 ^ 52 ≤ e then some 0x10
  else if m.poisonedAt slot ((size + 1) * 128) then some 0x1C else none

/-- A request to a compressed page (R189 to R191): the slice reads the block-table entry in plaintext, decompresses the slot, and writes
the whole slot back after a store that fits it; one that does not fit takes "slot overflow" and writes nothing, and the slice drops the block.
(DEDUCED, log entry 42.) -/
def compServe (ft : Features) (ag : Agent) (pg : Page) (entry off n : Nat) (va : DWord) (op : HomeOp) : Act (List Byte) := do
  let m ← get
  let (slot, size, e) := m.compSlot entry
  let bad (cause : Nat) : Flt := { cause := cause, va := va, pa := e % 2 ^ 52 / 128 * 128, field := 0, wr := op.writes, alias_ := false }
  match m.compCause entry with
  | some c => actFault (bad c)
  | none => pure ()
  let at_ := m.slotPage pg
  if !pg.seen then set ((m.touchL2 ft at_ ((size + 1) * 128)).aliasFire ft ag at_ va op.writes (m.aliasOld at_ ((size + 1) * 128)))
  let old := ((m.compBlock pg.key entry).drop off).take n
  match op.new old n with
  | none => pure ()
  | some l =>
    if !m.compFits pg.key entry off l then
      modify fun m => (m.dropL2 (slot / 512)).dropL2 ((slot + (size + 1) * 128 - 1) / 512)
      actFault (bad 0x03)
    modify fun m => ((m.compPut pg.key entry off l).watch ag slot ((size + 1) * 128)).mapThreads fun t => t.wakeAt pg.loc n
  return old

/-- One request at the home slice, by any agent of the device (R151, R183, R187, R211, R322, R327): the old bytes of the location.
An atomic on another pod device's memory is performed at its owner's home (R324, R330). (DEDUCED, log entry 46.) -/
def homeAccess (ft : Features) (ag : Agent) (pg : Page) (va : DWord) (n : Nat) (op : HomeOp) : Act (List Byte) := do
  let m ← get
  let bad (cause : Nat) : Flt := { cause := cause, va := va, pa := pg.loc % 2 ^ 52, field := 0, wr := op.writes, alias_ := false }
  let there := match pg.comp with | some (e, _) => e | none => pg.loc
  if !op.writes && m.strandedAt there n then actFault (bad 0x1C)
  if !m.linkUp ft there then actFault (bad 0x1D)
  match pg.comp with
  | some (e, off) => compServe ft ag pg e off n va op
  | none =>
    snoopHost pg.loc
    if pg.cc == 2 && op.reads then awaitPublish ag.core pg.loc n
    let old := if pg.seen then none else m.aliasOld pg n
    if !pg.seen && !m.forwards pg.loc n op then modify fun m => m.touchL2 ft pg n
    let away := isDevLoc pg.loc && !m.isLocal pg.loc && (match op with | .rmw _ => true | _ => false)
    let g := grainSize pg.cg
    let was ← if pg.cc == 2 then do
        regrain pg
        if away then modify fun m => m.dropL2 (pg.loc / 512)
        homeServe (if away then 3 else pg.cc) pg.key pg.loc n (pg.loc / g * g) g ag.core op (some (bad 0x1C))
      else do
        if away then modify fun m => m.dropL2 (pg.loc / 512)
        homePerform (if away then 3 else pg.cc) pg.key pg.loc n op (some (bad 0x1C))
    modify fun m => m.aliasFire ft ag pg va op.writes old
    let chain := match op with | .rmw _ => true | _ => false
    if (op.new was n).isSome then modify fun m => (m.noteWrite ag pg.loc n).setMarks pg.loc (if chain then 0 else n) none
    return was

end Sys2Proof.Machine
end

