-- ==== Sys2Proof/Machine/Translate.lean ====
section
/-! DEFINITION. Translation: page-table entries (R168 to R172), the walk (R312, R313), translation caches (R314), and the checks of each
access against its leaf (R165, R172, R185, R323). -/

namespace Sys2Proof.Machine

open Sys2Proof

/-- What an access needs of its page: a read, a write, a read and a write, a fetch, a prefetch hint. -/
inductive Need where
  | read | write | both | fetch
  deriving DecidableEq, Repr

/-- The need includes writing. -/
def Need.wr : Need → Bool
  | .write => true
  | .both => true
  | _ => false

/-- A leaf as read: its two doublewords, the base of its page and the size in bits. -/
structure Leaf where
  d0 : Nat
  d1 : Nat
  page : Nat
  log : Nat
  deriving DecidableEq, Repr

/-- The index of a level (R168). -/
def levelIndex (va level : Nat) : Nat := bitsOf va (12 + 9 * level) 9

/-- A table's entry: two doublewords read with relaxed reads at system scope (R313). -/
def Dev.entryAt (m : Dev) (tbl i : Nat) : Nat × Nat :=
  (ofBytes (m.visible 0 (tbl + 16 * i) 8), ofBytes (m.visible 0 (tbl + 16 * i + 8) 8))

/-- A pointer entry with any field but V, LEAF and FRAME not zero, or FRAME bit 12 set (R170). -/
def pointerBad (d0 d1 : Nat) : Bool := d1 != 0 || bitsOf d0 52 12 != 0 || bitsOf d0 9 3 != 0 || bitsOf d0 1 7 != 0 || bitsOf d0 12 1 != 0

/-- A leaf that breaks R170 or R172's second row at its level; `log` is the page's size. -/
def leafBad (d0 d1 log : Nat) : Bool :=
  bitsOf d0 52 12 != 0 || bitsOf d0 1 2 != 0 || bitsOf d1 29 18 != 0 || bitsOf d1 0 6 != 0 || bitsOf d0 10 2 == 3 ||
    (bitsOf d1 6 2 == 2 && bitsOf d1 8 2 == 3) || bitsOf d0 0 log / 4096 != 0 || (log != 16 && log != 12 && bitsOf d0 9 1 != 0) ||
    (bitsOf d0 6 1 == 0 && bitsOf d1 10 6 != 0)

/-- One entry of the walk at a level that can hold leaves of `log` bits: a leaf, a next table, or a fault cause (R172). -/
def readEntry (d0 d1 va log : Nat) (leafOk ptrOk : Bool) : Except Nat (Leaf ⊕ Nat) :=
  if bitsOf d0 0 1 = 0 then .error 0x01
  else if bitsOf d0 8 1 = 1 then
    if !leafOk || leafBad d0 d1 log then .error 0x10 else .ok (.inl { d0 := d0, d1 := d1, page := va / 2 ^ log * 2 ^ log, log := log })
  else if !ptrOk || pointerBad d0 d1 then .error 0x10
  else .ok (.inr (bitsOf d0 12 40 * 4096))

/-- A table entry whose bytes carry poison (R296). -/
def Dev.entryPoisoned (m : Dev) (tbl i : Nat) : Bool := m.poisonedAt (tbl + 16 * i) 16

/-- The entry of level 0, with the 64 KiB groups of R171. -/
def Dev.readLeaf0 (m : Dev) (tbl va : Nat) : Except Nat (Leaf ⊕ Nat) :=
  let i := levelIndex va 0
  let (f0, f1) := m.entryAt tbl (i / 16 * 16)
  if m.entryPoisoned tbl (i / 16 * 16) then .error 0x1C
  else if bitsOf f0 9 1 = 1 then readEntry f0 f1 va 16 true false
  else if m.entryPoisoned tbl i then .error 0x1C
  else
    let (d0, d1) := m.entryAt tbl i
    readEntry d0 d1 va 12 true false

/-- The walk from a table of a level down (R168, R172): the leaf, or a fault cause. A table that does not lie in backed local memory, which R168 requires
of it, gives the protection fault (DESIGN CHOICE, log entry 80); without POD, one in another device's memory gives "link lost" (R6). -/
def Dev.walkFrom (m : Dev) (ft : Features) (tbl va level : Nat) : Except Nat Leaf :=
  if !m.isLocal tbl && !ft.has 5 then .error 0x1D
  else if !m.isLocal tbl || !m.backed ft tbl then .error 0x10
  else
    match level with
    | 0 => match m.readLeaf0 tbl va with
      | .ok (.inl l) => .ok l
      | .ok (.inr _) => .error 0x10
      | .error c => .error c
    | k + 1 =>
      let (d0, d1) := m.entryAt tbl (levelIndex va (k + 1))
      if m.entryPoisoned tbl (levelIndex va (k + 1)) then .error 0x1C
      else match readEntry d0 d1 va (12 + 9 * (k + 1)) (k < 2) true with
      | .ok (.inl l) => .ok l
      | .ok (.inr t) => m.walkFrom ft t va k
      | .error c => .error c

/-- The walk of an address space (R312); a root entry that no memory backs, or behind no link, faults as any access to it does (R1, R6). -/
def Dev.walk (m : Dev) (ft : Features) (asid va : Nat) : Except Nat Leaf :=
  let root := bitsOf m.mgmt.ttBase.toNat 16 36 * 65536
  let r := ofBytes (m.visible 0 (root + 8 * asid) 8)
  if !m.backed ft (root + 8 * asid) then .error 0x10
  else if !m.linkUp ft (root + 8 * asid) then .error 0x1D
  else if m.poisonedAt (root + 8 * asid) 8 then .error 0x1C
  else if bitsOf r 0 1 = 0 || bitsOf r 1 12 != 0 || bitsOf r 52 12 != 0 then .error 0x10
  else m.walkFrom ft (bitsOf r 13 39 * 8192) va 4

/-- The leaf's compressed page breaks R185. -/
def compBad (l : Leaf) : Bool :=
  let apt := bitsOf l.d0 10 2
  let cc := bitsOf l.d1 6 2
  !(apt == 1 || apt == 2) || !(cc == 0 || cc == 3) || !(l.log == 12 || l.log == 16) || (l.log == 16 && bitsOf l.d1 10 6 % 16 != 0)

/-- The permission row of R172. -/
def permBad (l : Leaf) (need : Need) : Bool :=
  let pr := bitsOf l.d0 3 1 == 1
  let pw := bitsOf l.d0 4 1 == 1
  let px := bitsOf l.d0 5 1 == 1
  let rs := bitsOf l.d1 6 2 == 1
  match need with
  | .read => !pr
  | .write => !pw || rs
  | .both => !pr || !pw || rs
  | .fetch => !px

/-- The page of an access (R169). -/
def Leaf.pageOf (l : Leaf) (asid va : Nat) : Page :=
  let apt := bitsOf l.d0 10 2
  let frame := apt * 2 ^ 52 + bitsOf l.d0 12 40 * 4096
  let off := va % 2 ^ l.log
  let comp := if bitsOf l.d0 6 1 = 1 then some (frame / 2 ^ l.log * 2 ^ l.log + 64 * bitsOf l.d1 10 6 + 8 * (off / 512), off % 512) else none
  { asid := asid
    loc := match comp with
      | some (e, o) => 2 ^ 58 + e * 64 + o
      | none => frame + off
    cc := bitsOf l.d1 6 2, cg := bitsOf l.d1 8 2, key := bitsOf l.d1 16 13, hen := bitsOf l.d1 47 1 == 1, hidx := bitsOf l.d1 48 16, comp := comp }

/-- The rows of R172 that each access is checked against, with R165 and R323; a fault cause, or the page. (DEDUCED, log entry 46.) -/
def Dev.checkLeaf (m : Dev) (ft : Features) (l : Leaf) (asid va : Nat) (need : Need) : Except Nat Page :=
  let comp := bitsOf l.d0 6 1 == 1
  let pg := l.pageOf asid va
  if comp && compBad l then .error 0x10
  else if comp && !ft.has 1 then .error 0x13
  else if bitsOf l.d0 7 1 == 1 then .error 0x02
  else if permBad l need then .error 0x10
  else if pg.key != 0 && (mget none m.mgmt.keys pg.key).isNone then .error 0x10
  else if pg.comp.isNone && !m.backed ft pg.loc then .error 0x10
  else if bitsOf l.d0 10 2 != 0 && pg.cc != 3 && !ft.has 4 then .error 0x10
  else .ok pg

/-- A leaf as a request on its way carries it. -/
def Leaf.entry (l : Leaf) (asid : Nat) : TlbEntry :=
  { asid := asid, page := l.page / 2 ^ l.log, log := l.log, d0 := BitVec.ofNat 64 l.d0, d1 := BitVec.ofNat 64 l.d1 }

/-- The leaf that a request carries. -/
def TlbEntry.leaf (e : TlbEntry) : Leaf := { d0 := e.d0.toNat, d1 := e.d1.toNat, page := e.page * 2 ^ e.log, log := e.log }

/-- The translation cache's entry for an address (R313, R314). -/
def Core.tlbFind (c : Core) (asid va : Nat) : Option Leaf :=
  (c.tlb.find? fun e => e.asid == asid && e.page == va / 2 ^ e.log).map fun e => e.leaf

/-- Caches a leaf, the oldest of 256 entries giving way (R313). -/
def Core.tlbAdd (c : Core) (asid : Nat) (l : Leaf) : Core :=
  { c with tlb := l.entry asid :: (c.tlb.filter fun e => !(e.asid == asid && e.page == l.page / 2 ^ l.log && e.log == l.log)).take 255 }

/-- A fault of a translation: its address, and whether the access writes (R298). (DEDUCED, log entry 46.) -/
def transFlt (cause va : Nat) (need : Need) : Flt := Flt.at_ cause va need.wr

/-- The locations of the entries that a walk from a table of a level down reads. -/
def Dev.walkLocsFrom (m : Dev) (tbl va level : Nat) : List Nat :=
  let a := tbl + 16 * levelIndex va level
  match level with
  | 0 => [a]
  | k + 1 =>
    let (d0, d1) := m.entryAt tbl (levelIndex va (k + 1))
    match readEntry d0 d1 va (12 + 9 * (k + 1)) (k < 2) true with
    | .ok (.inr t) => a :: m.walkLocsFrom t va k
    | _ => [a]

/-- The host answers for the lines of which it may hold a copy, and pod devices for those that they own, before the walk reads them (R322, R330). -/
def snoopWalk (asid va : Nat) : Act Unit := do
  let m ← get
  let root := bitsOf m.mgmt.ttBase.toNat 16 36 * 65536 + 8 * asid
  if !(m.hostHeld.isEmpty && m.podOwned.isEmpty) then
    for loc in root :: m.walkLocsFrom (bitsOf (ofBytes (m.visible 0 root 8)) 13 39 * 8192) va 4 do
      snoopHost loc

/-- Walks for an address and caches a leaf that passes with MIG = 0 (R313, R314). -/
def walkAndCache (ft : Features) (core asid va : Nat) (need : Need) : Act Page := do
  snoopWalk asid va
  let m ← get
  match m.walk ft asid va with
  | .error c => actFault (transFlt c va need)
  | .ok l =>
    match m.checkLeaf ft l asid va need with
    | .error c => actFault (transFlt c va need)
    | .ok pg =>
      set (m.modCore core fun x => x.tlbAdd asid l)
      return pg

/-- Misses of a core's engines that joined the walks before a number and still wait for one (R313). -/
def Core.missesBefore (c : Core) (n : Nat) : Nat := (c.missed.filter fun x => x.1 < n && (c.tlbFind x.2.1 (4096 * x.2.2)).isNone).length

/-- The misses of a die's cores that wait for a walk or have one, those that a fault has suspended aside: those that arrived before a number (R313). -/
def Dev.walksBefore (m : Dev) (ft : Features) (core n : Nat) : Nat :=
  (m.cores.map fun (i, c) =>
    if ft.dieOf i == ft.dieOf core then
      (c.accs.filter fun a => a.phase == .walk && a.asked < n && !m.suspended a.asid (.access i a.id)).length + c.missesBefore n
    else 0).sum

/-- An engine's miss has one of the 64 walks of its die, or joins those that wait for one, in arrival order (R313). -/
def awaitWalk (ft : Features) (core asid va : Nat) : Act Unit := do
  let m ← get
  let own (x : Nat × Nat × Nat) : Bool := x.2 == (asid, va / 4096)
  match (m.core core).missed.find? own with
  | some x =>
    if 64 ≤ m.walksBefore ft core x.1 then actWait
    set (m.modCore core fun c => { c with missed := c.missed.filter fun x => !own x })
  | none =>
    if 64 ≤ m.walksBefore ft core m.nextId then
      set (m.fresh.modCore core fun c => { c with missed := c.missed ++ [(m.nextId, asid, va / 4096)] })
      actWait

/-- Translate (R103) for an operation that walks in place: the cached leaf, or a walk. -/
def translate (ft : Features) (core asid va : Nat) (need : Need) : Act Page := do
  if 2 ^ 57 ≤ va then actFault (transFlt 0x10 va need)
  let m ← get
  match (m.core core).tlbFind asid va with
  | some l =>
    match m.checkLeaf ft l asid va need with
    | .error c => actFault (transFlt c va need)
    | .ok pg => return pg
  | none => do
    awaitWalk ft core asid va
    walkAndCache ft core asid va need

end Sys2Proof.Machine
end

