-- ==== Sys2Proof/Machine/Stash.lean ====
section
/-! DEFINITION. The stash and its skein entries: which bytes an entry covers (R142), routing of virtual addresses (R139), first touch
and fill (R146 to R149), local reads and writes (R138, R153), and a core's own path to memory through L1 (R173, R175, R177). -/

namespace Sys2Proof.Machine

open Sys2Proof

/-! ### Geometry (R142) -/

/-- Selected words of an entry. -/
def Skein.words (e : Skein) : Nat := e.count * e.len

/-- Segments that an entry covers (R142). -/
def Skein.segCount (e : Skein) : Nat := (4 * e.words + 63) / 64

/-- The stash byte of the core where the entry's covered bytes begin. -/
def Skein.lo (e : Skein) : Nat := e.win + e.soff

/-- The virtual address of packed word `i` (R142). -/
def Skein.vaOf (e : Skein) (i : Nat) : Nat := e.base + i / e.len * e.stride + 4 * (e.foff + i % e.len)

/-- The packed word that holds a virtual address, where that word is selected. -/
def Skein.wordAt (e : Skein) (va : Nat) : Option Nat :=
  if va < e.base then none
  else
    let o := va - e.base
    let r := o / e.stride
    let w := o % e.stride / 4
    if r < e.count && e.foff ≤ w && w < e.foff + e.len then some (r * e.len + (w - e.foff)) else none

/-- The entry and segment that cover a stash byte of the core. -/
def Core.cover (c : Core) (x : Nat) : Option (Nat × Nat) :=
  c.skeins.findSome? fun (k, e) =>
    match e with
    | some s => if s.lo ≤ x && x < s.lo + 64 * s.segCount then some (k, (x - s.lo) / 64) else none
    | none => none

/-- Routing of an access (R139): the stash byte where its bytes begin, where all of them lie in selected words of one entry of the
context. (DEDUCED, log entry 29.) -/
def Core.route (c : Core) (asid va n : Nat) : Option Nat :=
  c.skeins.findSome? fun (_, e) =>
    match e with
    | some s =>
      if s.asid == asid && (List.range n).all (fun i => (s.wordAt (va + i)).isSome) then
        (s.wordAt va).map fun i => s.lo + 4 * i + va % 4
      else none
    | none => none

/-- The virtual addresses of an access touch some entry of the context. -/
def Core.routesAny (c : Core) (asid va n : Nat) : Bool :=
  c.skeins.any fun (_, e) =>
    match e with
    | some s => s.asid == asid && (List.range n).any fun i => (s.wordAt (va + i)).isSome
    | none => false

/-- An access that does not lie wholly in selected words, or an atomic, gives the core's own segments up: those that hold a byte of it are
recalled, whatever the class of their pages (R139). (DEDUCED, log entry 29.) -/
def recallOwn (core asid va n : Nat) : Act Unit := do
  let m ← get
  for (k, e) in (m.core core).skeins do
    match e with
    | some s =>
      if s.asid == asid then
        for i in List.range n do
          match s.wordAt (va + i) with
          | some w =>
            let m ← get
            if (m.seg core k (w / 16)).st != .unfilled then recallSeg core k (w / 16)
          | none => pure ()
    | none => pure ()

/-! ### Touch and fill (R146 to R149) -/

/-- What a fill needs of a page, by the entry's mode (R147, R148): a write-only entry asks for write permission alone (DEDUCED, log entry 81). -/
def modeNeed (mode : Nat) : Need := match mode with | 0 => .read | 1 => .both | _ => .write

/-- The faults of an action say whether the access that caused it writes (R298). -/
def asWr {α : Type} (wr : Bool) (a : Act α) : Act α :=
  tryCatch a fun e => match e with
    | .flt f => throw (.flt { f with wr := wr })
    | .wait => throw .wait

/-- The words of a segment with their pages, translated in order (R147). -/
def fillWords (ft : Features) (core : Nat) (e : Skein) (s : Nat) : Act (List (SkWord × Page)) := do
  let mut out : List (SkWord × Page) := []
  for j in List.range 16 do
    let i := 16 * s + j
    if i < e.words then
      let pg ← translate ft core e.asid (e.vaOf i) (modeNeed e.mode)
      let tracked := pg.cc == 2
      let w : SkWord :=
        { at_ := e.lo + 4 * i, pa := pg.loc, cc := pg.cc, key := pg.key, owner := tracked && e.mode == 1, sharer := tracked && e.mode == 0,
          dirty := false, written := e.mode != 2, comp := pg.comp, cg := pg.cg, heat := if pg.hen then some pg.hidx else none }
      out := out ++ [(w, pg)]
  return out

/-- The page of a registered or gathered word as a request of its own (R149). -/
def SkWord.page (w : SkWord) (asid : Nat) : Page :=
  { asid := asid, loc := w.pa, cc := w.cc, cg := w.cg, key := w.key, hen := w.heat.isSome, hidx := w.heat.getD 0, comp := w.comp }

/-- One request for the words at `locs`, which lie in one line, reaches their home slice: it is a miss where the slice lacks a sector of words that no stash
owns (R187). -/
def Dev.touchLine (m : Dev) (ft : Features) (pg : Page) (locs : List Nat) : Dev :=
  match pg.comp with
  | some (x, _) => m.touchL2 ft (m.slotPage pg) (((m.compSlot x).2.1 + 1) * 128)
  | none => m.touchSectors ft pg ((locs.filter fun a => ((m.holders a 4).filter fun h => h.word.owner).isEmpty).map fun a => a / 32).eraseDups

/-- Registering a word as owner recalls every other holder; as sharer, every other owner; the copies of its line in L1 and in slices of other dies and other pod
devices go, and with them the ownership of its grain (R150, R179, R330). The home may refuse (R180). A line the host may hold is first snooped (R322). The
request is made for the words at `locs`, none where another word's has been. -/
def registerWord (ft : Features) (ag : Agent) (core k s : Nat) (pg : Page) (owner : Bool) (locs : List Nat) : Act Unit := do
  snoopHost pg.loc
  atHome ft ag [pg] true do
    regrain pg
    modify fun m => m.touchLine ft pg locs
    let m ← get
    recallAll ((m.holders pg.loc 4).filter fun h => !(h.core == core && h.entry == k && h.seg == s) && (owner || h.word.owner))
    let g := grainSize pg.cg
    modify fun x => (((x.giveBack (pg.loc / g * g) g (2 ^ 13) false).giveBack (pg.loc / 128 * 128) 128 (2 ^ 13) true).dropFarRun
      (pg.loc / 128 * 128) 128).recallPods (pg.loc / 128 * 128) 128

/-- A fault of a word of an entry at its home: cause, its virtual and physical address, whether the access that touches it writes (R298). -/
def Dev.wordFlt (m : Dev) (e : Skein) (w : SkWord) (pg : Page) (cause : Nat) (wr : Bool) : Flt :=
  { Flt.at_ cause (e.vaOf ((w.at_ - e.lo) / 4)) wr with pa := (m.slotPage pg).loc % 2 ^ 52 }

/-- A byte of a word comes from the core's own L1, which holds it of a page that is not coherent (R148). -/
def Dev.ownByte (m : Dev) (core : Nat) (w : SkWord) (i : Nat) : Option Byte :=
  if w.comp.isSome then none
  else (mget none (m.core core).l1 (w.pa + i)).bind fun e => if e.cc == 2 then none else some e.b

/-- What a read of a word in the hierarchy by its core may fault on (R148, R189, R296). -/
def Dev.readCause (m : Dev) (core : Nat) (w : SkWord) : Option Nat :=
  match w.comp with
  | some (x, _) => m.compCause x
  | none => if (List.range 4).any fun i => (m.ownByte core w i).isNone && m.poisonedAt (w.pa + i) 1 then some 0x1C else none

/-- What a word of a fill may fault on before its home is asked (R189, R327). -/
def fillBad (ft : Features) (m : Dev) (e : Skein) (w : SkWord) (pg : Page) (wr : Bool) : Option Flt :=
  let there := match pg.comp with | some (x, _) => x | none => pg.loc
  let cause : Option Nat :=
    if e.mode == 0 && m.strandedAt there 4 then some 0x1C
    else if !m.linkUp ft there then some 0x1D
    else none
  cause.map fun c => m.wordFlt e w pg c wr

/-- The requests that a fill needs: one for each distinct line that its words occupy (R176). -/
def fillLines (ws : List (SkWord × Page)) : Nat := (ws.map fun x => x.1.pa / 128).eraseDups.length

/-- The words of a fill by the lines that they occupy: the first of each line, and the locations of all of them. -/
def lineHeads (ws : List (SkWord × Page)) : List ((SkWord × Page) × List Nat) :=
  (ws.foldl (fun (l : List (SkWord × Page)) x => if l.any fun y => y.1.pa / 128 == x.1.pa / 128 then l else l ++ [x]) []).map fun x =>
    (x, (ws.map fun y => y.1.pa).filter fun a => a / 128 == x.1.pa / 128)

/-- The class that the alias detector meets as a request of `n` bytes of a page reaches its home slice: of a compressed page, as it reaches the slot (R183). -/
def Dev.aliasMet (m : Dev) (pg : Page) (n : Nat) : Option Nat :=
  match pg.comp with
  | some (x, _) => m.aliasOld (m.slotPage pg) (((m.compSlot x).2.1 + 1) * 128)
  | none => m.aliasOld pg n

/-- The alias detector sees one request for a page (R183, R184). -/
def Dev.aliasSees (m : Dev) (ft : Features) (ag : Agent) (pg : Page) (va : Nat) (wr : Bool) (old : Option Nat) : Dev :=
  m.aliasFire ft ag (m.slotPage pg) (BitVec.ofNat 64 va) wr old

/-- The first touch of an Unfilled segment starts its fill: every page is translated, every word registered, and the touching operation
waits; a write-only segment is Clean at once, its words unwritten and reading as 0 (R146 to R149). Each distinct line that its words occupy is one
request (R176). -/
def startFill (ft : Features) (ag : Agent) (core k s : Nat) (wr : Bool) : Act Unit := do
  let m ← get
  match mget none (m.core core).skeins k with
  | none => pure ()
  | some e =>
    let ws ← asWr wr (fillWords ft core e s)
    let m ← get
    match ws.findSome? fun (w, pg) => fillBad ft m e w pg wr with
    | some f => actFault f
    | none => pure ()
    if e.mode == 2 then
      modify fun m =>
        let m1 := m.modCore core fun c => { c with stash := ws.foldl (fun b x => mwriteBytes b x.1.at_ [0, 0, 0, 0]) c.stash }
        (ws.foldl (fun (y : Dev) x => y.cleanStash core x.1.at_ 4) m1).modSeg core k s fun _ => { st := .clean, words := ws.map (·.1), wb := none }
    else
      let heads := lineHeads ws
      withRequests core ag.requester (fillLines ws) do
        for (w, pg) in ws do
          awaitStores core ag.requester (e.vaOf ((w.at_ - e.lo) / 4)) 4
          let locs := match heads.find? fun h => h.1.1.at_ == w.at_ with | some h => h.2 | none => []
          if w.owner || w.sharer then
            awaitPublish core w.pa 4
            registerWord ft ag core k s pg w.owner locs
          else
            snoopHost w.pa
            if !locs.isEmpty then modify fun m => m.touchLine ft pg locs
        let m ← get
        match ws.findSome? fun (w, pg) => (m.readCause core w).map fun c => m.wordFlt e w pg c wr with
        | some f => actFault f
        | none => pure ()
      modify fun x =>
        let x1 := heads.foldl (fun (y : Dev) h => y.aliasSees ft ag h.1.2 (e.vaOf ((h.1.1.at_ - e.lo) / 4)) wr (m.aliasMet h.1.2 4)) x
        x1.modSeg core k s fun _ => { st := .filling, words := ws.map (·.1), wb := none }
      actWait

/-- A touch of a covered segment: done where it is Clean or Dirty, else the operation waits (R146). An entry that is leaving is waited for: the operation
then sees the state after it (R156). -/
def touchSeg (ft : Features) (ag : Agent) (core k s : Nat) (wr : Bool) : Act Unit := do
  modify fun m => m.freeRequests core ag.requester
  let m ← get
  if (match mget none (m.core core).skeins k with | some e => e.leaving | none => false) then actWait
  match (m.seg core k s).st with
  | .clean => pure ()
  | .dirty => pure ()
  | .filling => actWait
  | .retiring => actWait
  | .unfilled => startFill ft ag core k s wr

/-- Touches every covered segment of the stash bytes [x, x + n). -/
def touchRange (ft : Features) (ag : Agent) (core x n : Nat) (wr : Bool) : Act Unit := do
  for i in List.range ((x + n - 1) / 64 - x / 64 + 1) do
    let m ← get
    match (m.core core).cover ((x / 64 + i) * 64) with
    | some (k, s) => touchSeg ft ag core k s wr
    | none => pure ()

/-- Reads stash bytes of a core by their position in its stash (R138, R146). (DEDUCED, log entry 77.) -/
def stashRead (ft : Features) (ag : Agent) (core x n : Nat) : Act (List Byte) := do
  touchRange ft ag core x n false
  let m ← get
  if m.poisoned.any (fun a => stashLoc core x ≤ a && a < stashLoc core x + n) then actFault (Flt.plain 0x1C)
  return mreadBytes (m.core core).stash x n

/-- The segment and word of a skein entry that hold a stash byte of the core: the entry's number, the entry, the segment, the word. -/
def Dev.heldAt (m : Dev) (core x : Nat) : Option (Nat × Skein × Nat × SkWord) :=
  match (m.core core).cover x with
  | none => none
  | some (k, s) =>
    match mget none (m.core core).skeins k with
    | none => none
    | some e => ((m.seg core k s).words.find? fun w => w.at_ ≤ x && x < w.at_ + 4).map fun w => (k, e, s, w)

/-- The first write of `n` bytes to a word makes a request: the word is registered, or gathered (R148). -/
def SkWord.asks (w : SkWord) (n : Nat) : Bool := !w.written && (w.cc == 2 || n < 4)

/-- The bytes of a word as its core meets them in the hierarchy (R148): its own L1 copy, else the home's. -/
def Dev.hierBytes (m : Dev) (core : Nat) (w : SkWord) : List Byte :=
  match w.comp with
  | some (e, off) => ((m.compBlock w.key e).drop off).take 4
  | none => (List.range 4).map fun i => (m.ownByte core w i).getD (m.homeByte w.key (w.pa + i))

/-- What must be done before `n` stash bytes of one word are written: a read-only entry is protected, and an unwritten word of a coherent page is
registered with its home; where the write covers less than the word, its value can be gathered (R148, R149). Either takes a request (R176). Stores of the core
to those bytes that are on their way reach their home first (R200, R201). -/
def stashReady (ft : Features) (ag : Agent) (core x n : Nat) : Act Unit := do
  let m ← get
  match m.heldAt core x with
  | none => pure ()
  | some (k, e, s, w) =>
    let pg := w.page e.asid
    if e.mode == 0 then actFault { Flt.plain 0x10 with wr := true, pa := (m.slotPage pg).loc % 2 ^ 52 }
    if !w.written then awaitStores core ag.requester (e.vaOf ((w.at_ - e.lo) / 4)) 4
    if w.asks n then
      if !m.linkUp ft (match w.comp with | some (y, _) => y | none => w.pa) then actFault (m.wordFlt e w pg 0x1D true)
      let locs := if n < 4 then [w.pa] else []
      withRequests core ag.requester 1 do
        if w.cc == 2 then
          if n < 4 then awaitPublish core w.pa 4
          registerWord ft ag core k s pg true locs
        else
          snoopHost w.pa
          modify fun m => m.touchLine ft pg locs
        if n < 4 then
          let m ← get
          match m.readCause core w with
          | some c => actFault (m.wordFlt e w pg c true)
          | none => pure ()

/-- Words that a core's stash writes back into a block of a compressed page: those on their way, then the dirty ones: offset in the block, bytes. -/
def Dev.dirtyInBlock (m : Dev) (core entry : Nat) : List (Nat × List Byte) :=
  let of (l : List (SkWord × List Byte)) : List (Nat × List Byte) :=
    l.filterMap fun (w, b) => match w.comp with | some (e, off) => if e == entry then some (off, b) else none | none => none
  (m.core core).skeins.flatMap fun (k, e) =>
    match e with
    | some y => y.segs.flatMap fun (s, g) => of (match g.wb with | some (_, d) => d | none => []) ++ of (m.segData core k s)
    | none => []

/-- A write of pieces into words of a compressed block: what the words will write back. -/
def Dev.piecesInBlock (m : Dev) (core entry x : Nat) (l : List Byte) (ps : List (Nat × Nat)) : List (Nat × List Byte) :=
  ps.flatMap fun p =>
    match m.heldAt core (x + p.1) with
    | some (_, _, _, w) =>
      match w.comp with
      | some (e, off) =>
        if e == entry then
          (if w.written then [(off, mreadBytes (m.core core).stash w.at_ 4)] else []) ++ [(off + (x + p.1 - w.at_), (l.drop p.1).take p.2)]
        else []
      | none => []
    | none => []

/-- A store into the stash of a word of a compressed page is performed only where its block, with all that the stash will write back, still fits the slot
(R191): a write-back cannot fault (R154; DESIGN CHOICE, log entry 79). -/
def stashFits (core x : Nat) (l : List Byte) (ps : List (Nat × Nat)) (y : Nat) : Act Unit := do
  let m ← get
  match m.heldAt core y with
  | none => pure ()
  | some (_, e, _, w) =>
    match w.comp with
    | none => pure ()
    | some (entry, _) =>
      match m.compCause entry with
      | some c => actFault (m.wordFlt e w (w.page e.asid) c true)
      | none => pure ()
      let blk := (m.dirtyInBlock core entry ++ m.piecesInBlock core entry x l ps).foldl (fun b (z : Nat × List Byte) => compWith b z.1 z.2) (m.compBlock w.key entry)
      if (m.compSlot entry).2.1 < blockNeed blk then actFault (m.wordFlt e w (w.page e.asid) 0x03 true)

/-- The alias detector sees the request that a first write of `n` bytes to a word has made (R148, R183). -/
def Dev.askWord (m0 : Dev) (ft : Features) (ag : Agent) (core x n : Nat) (m : Dev) : Dev :=
  match m.heldAt core x with
  | some (_, e, _, w) =>
    if w.asks n then
      m.aliasSees ft ag (w.page e.asid) (e.vaOf ((w.at_ - e.lo) / 4)) true (m0.aliasMet (w.page e.asid) 4)
    else m
  | none => m

/-- Bytes of a word are written in the stash: watches and waiting threads see the write, of a word of a compressed page at its block's slot, which the word will be
part of (R317, R431). -/
def Dev.noteWord (m : Dev) (ag : Agent) (w : SkWord) (o n : Nat) : Dev :=
  match w.comp with
  | some (e, _) => ((m.watch ag (m.compSlot e).1 (((m.compSlot e).2.1 + 1) * 128)).mapThreads fun t => t.wakeAt (w.pa + o) n)
  | none => m.noteWrite ag (w.pa + o) n

/-- Writes stash bytes of one word or less: into the word of a covered segment, which becomes Dirty (R148, R153), or into plain stash. -/
def stashPut (ag : Agent) (core x : Nat) (l : List Byte) (m : Dev) : Dev :=
  let put (m : Dev) : Dev := m.modCore core fun c => { c with stash := mwriteBytes c.stash x l }
  match m.heldAt core x with
  | none => put m
  | some (k, _, s, w) =>
    let m0 := if !w.written && l.length < 4 then
        (m.modCore core fun c => { c with stash := mwriteBytes c.stash w.at_ (m.hierBytes core w) }).cleanStash core w.at_ 4
      else m
    let m1 := (put m0).modSeg core k s fun g =>
      { g with st := .dirty, words := g.words.map fun y => if y.at_ == w.at_ then { y with dirty := true, written := true, owner := y.cc == 2 } else y }
    (m1.noteWord ag w (x - w.at_) l.length).setMarks (w.pa + (x - w.at_)) l.length none

/-- The pieces of [x, x + n) that lie in one word each: offset and length. -/
def wordPieces (x n : Nat) : List (Nat × Nat) :=
  let lead := min n ((4 - x % 4) % 4)
  (if lead = 0 then [] else [(0, lead)]) ++ (List.range ((n - lead + 3) / 4)).map fun i => (lead + 4 * i, min 4 (n - lead - 4 * i))

/-- Writes stash bytes of a core (R148, R153): every word is made ready, and then all are written at once (R198). -/
def stashWrite (ft : Features) (ag : Agent) (core x : Nat) (l : List Byte) : Act Unit := do
  touchRange ft ag core x l.length true
  let ps := wordPieces x l.length
  let m0 ← get
  for (o, n) in ps do
    stashReady ft ag core (x + o) n
  for (o, _) in ps do
    stashFits core x l ps (x + o)
  modify fun m =>
    (ps.foldl (fun y p => stashPut ag core (x + p.1) ((l.drop p.1).take p.2) (m0.askWord ft ag core (x + p.1) p.2 y)) m).cleanStash core x l.length

/-- The marks of a write through a skein, for the words of coherent pages among [x, x + n) (R211). -/
def Dev.markStash (m : Dev) (core x n : Nat) (mk : Option (Nat × Nat)) : Dev :=
  (wordPieces x n).foldl (fun y p =>
    match y.heldAt core (x + p.1) with
    | some (_, _, _, w) => if w.cc == 2 then y.setMarks (w.pa + (x + p.1 - w.at_)) p.2 mk else y
    | none => y) m

/-- The data of a fill lands: every word with its current value, what the stash bytes held before being gone, and the segment is Clean (R147). -/
def Dev.landFill (m : Dev) (core k s : Nat) : Dev :=
  let g := m.seg core k s
  let m1 := g.words.foldl (fun (x : Dev) w =>
    (x.modCore core fun c => { c with stash := mwriteBytes c.stash w.at_ (x.hierBytes core w) }).cleanStash core w.at_ 4) m
  m1.modSeg core k s fun g => { g with st := .clean }

/-! ### A core's path to memory -/

/-- L1's bytes of [loc, loc + n), where it holds them all (R173). -/
def Core.l1Bytes (c : Core) (loc n : Nat) : Option (List Byte) :=
  let l := (List.range n).map fun i => mget none c.l1 (loc + i)
  if l.all Option.isSome then some (l.filterMap fun x => x.map fun e => e.b) else none

/-- A line that L1 takes in anew bears no mark of an earlier hint (R403). -/
def Core.freshLine (c : Core) (loc : Nat) : Core :=
  if c.strm.contains (loc / 128) && !c.l1.any (fun e => e.1 / 128 == loc / 128) then { c with strm := c.strm.filter (· != loc / 128) } else c

/-- A hint marks a line of L1 first to evict, or takes the mark off (R403). -/
def Core.markL1 (c : Core) (line hint : Nat) : Core :=
  let l := c.strm.filter (· != line)
  { c with strm := if hint = 1 then line :: l else l }

/-- L1 takes in a sector of 32 bytes of a page, keeping the bytes it already holds (R173); of a coherent page no byte that a stash owns and none for which
another core owes a publish, which the home would hold back (R211), and none that carries poison (R296). With `own`, or where the core owns the grain already, all its bytes of the grain are
owned, but for words that a stash holds (R179). (DEDUCED, log entry 43.) -/
def Dev.fillL1 (m : Dev) (core : Nat) (pg : Page) (own : Bool) : Dev :=
  let base := pg.loc / 32 * 32
  let g := grainSize pg.cg
  let gb := pg.loc / g * g
  let hs := if pg.cc == 2 then m.holders (min base gb) (max 32 g) else []
  let held (a : Nat) (any : Bool) : Bool := hs.any fun h => h.word.pa ≤ a && a < h.word.pa + 4 && (any || h.word.owner)
  let put (l : SMap (Option L1Byte)) (i : Nat) : SMap (Option L1Byte) :=
    if (mget none l (base + i)).isSome || m.poisonedAt (base + i) 1 || held (base + i) false || (pg.cc == 2 && !(m.publishers core (base + i) 1).isEmpty) then l
    else mput none l (base + i) (some { b := m.homeByte pg.key (base + i), key := pg.key, cc := pg.cc, dirty := false, own := false })
  let inGrain (e : Nat × Option L1Byte) : Bool := L1Byte.coherentIn gb g e
  m.modCore core fun c0 =>
    let c := c0.freshLine pg.loc
    let owned := pg.cc == 2 && (own || c.l1.any fun e => inGrain e && e.2.any fun x => x.own)
    let l := (List.range 32).foldl put c.l1
    { c with l1 := if owned then l.map fun e => if inGrain e && !held e.1 true then (e.1, e.2.map fun x => { x with own := true }) else e else l }

/-- The key under which a slice of another die holds its copy of a location (R174). -/
def farKey (die loc : Nat) : Nat := die * 2 ^ 64 + loc

/-- A line of local memory that a slice of the core's own die may hold: a coherent, private or read-shared one (R174). -/
def Dev.farDie (m : Dev) (ft : Features) (core : Nat) (pg : Page) : Option Nat :=
  if pg.cc != 3 && m.isLocal pg.loc && m.dieOfLoc ft pg.loc != ft.dieOf core then some (ft.dieOf core) else none

/-- The bytes of [loc, loc + n) that the slice of the core's die holds, where it holds them all. -/
def Dev.farBytes (m : Dev) (ft : Features) (core : Nat) (pg : Page) (n : Nat) : Option (List Byte) :=
  (m.farDie ft core pg).bind fun d =>
    let l := (List.range n).map fun i => mget none m.far (farKey d (pg.loc + i))
    if l.all Option.isSome then some (l.filterMap fun x => x.map fun e => e.b) else none

/-- A byte of a coherent page may be held in a slice of another die: no stash owns its word, no L1 its grain, and no core owes a publish for it (R150, R179,
R211). -/
def Dev.farFree (m : Dev) (pg : Page) (a : Nat) : Bool :=
  let owns (e : Nat × Option L1Byte) : Bool := pg.sameGrain e.1 && e.2.any fun x => x.cc == 2 && x.own
  pg.cc != 2 || !((m.holders a 1).any (fun h => h.word.owner) || m.cores.any (fun (_, c) => c.l1.any owns) || !(m.publishers (2 ^ 13) a 1).isEmpty)

/-- The slice of the core's die takes in a sector (R174). (DESIGN CHOICE, log entry 10.) -/
def Dev.fillFar (m : Dev) (ft : Features) (core : Nat) (pg : Page) : Dev :=
  match m.farDie ft core pg with
  | none => m
  | some d =>
    let base := pg.loc / 32 * 32
    { m with far := (List.range 32).foldl (fun l i => if m.poisonedAt (base + i) 1 || !m.farFree pg (base + i) then l else
        mput none l (farKey d (base + i)) (some { b := m.homeByte pg.key (base + i), key := pg.key, cc := pg.cc, dirty := false, own := false })) m.far }

/-- The copies of [loc, loc + n) in a slice of another die go. -/
def Dev.dropFar (m : Dev) (die loc n : Nat) : Dev :=
  { m with far := m.far.filter fun (a, _) => !(farKey die loc ≤ a && a < farKey die loc + n) }

/-- A byte of L1 goes to the home slice where it is dirty (R175). -/
def Dev.writeBackL1 (m : Dev) (core a : Nat) : Dev :=
  match mget none (m.core core).l1 a with
  | some e =>
    if e.dirty then
      (m.writeHome e.cc e.key a [e.b]).modCore core fun c => { c with l1 := mput none c.l1 a (some { e with dirty := false }) }
    else m
  | none => m

/-- L1 writes its dirty private lines back (R178). (DEDUCED, log entry 95.) -/
def Dev.flushPrivate (m : Dev) (core : Nat) : Dev :=
  ((m.core core).l1.filterMap fun (a, e) => match e with | some x => if x.cc == 0 && x.dirty then some a else none | none => none).foldl
    (fun x a => x.writeBackL1 core a) m

/-- L1 drops the bytes of a core that a test names, writing the dirty ones back first (R173, R175). (DEDUCED, log entry 43.) -/
def Dev.dropL1 (m : Dev) (core : Nat) (f : Nat → L1Byte → Bool) : Dev :=
  let xs := (m.core core).l1.filter fun (a, e) => match e with | some x => f a x | none => false
  let m1 := xs.foldl (fun x e => x.writeBackL1 core e.1) m
  m1.modCore core fun c => { c with l1 := c.l1.filter fun (a, e) => !(match e with | some x => f a x | none => false) }

/-- L1 may hold lines of the page: it is not compressed. -/
def Page.cached (pg : Page) : Bool := pg.comp.isNone

/-- A core's load from memory: from L1 where it holds the bytes, from the slice of its own die, else from the home, filling L1 unless told to bypass it
(R173, R174). -/
def coreLoad (ft : Features) (ag : Agent) (core : Nat) (pg : Page) (va : DWord) (n : Nat) (fill : Bool) : Act (List Byte) := do
  let m ← get
  match (if pg.cached then (m.core core).l1Bytes pg.loc n else none) with
  | some l => return l
  | none =>
    let old ← match (if pg.cached then m.farBytes ft core pg n else none) with
      | some l => pure l
      | none => homeAccess ft ag pg va n .load
    let m ← get
    if pg.cached then
      let l := (old.zipIdx).map fun (b, i) => match mget none (m.core core).l1 (pg.loc + i) with | some e => e.b | none => b
      if fill then set ((m.fillFar ft core pg).fillL1 core pg false)
      return l
    return old

/-- Bytes enter L1 as dirty ones, of a private page or of a coherent one whose grain the core owns (R173). -/
def Core.dirtyL1 (c : Core) (pg : Page) (l : List Byte) : Core :=
  let put (y : SMap (Option L1Byte)) (e : Byte × Nat) : SMap (Option L1Byte) :=
    mput none y (pg.loc + e.2) (some { b := e.1, key := pg.key, cc := pg.cc, dirty := true, own := pg.cc == 2 })
  { c.freshLine pg.loc with l1 := l.zipIdx.foldl put c.l1 }

/-- L1's copies of bytes follow a store that has gone to the home. -/
def Core.followL1 (c : Core) (pg : Page) (l : List Byte) : Core :=
  let put (y : SMap (Option L1Byte)) (e : Byte × Nat) : SMap (Option L1Byte) :=
    match mget none y (pg.loc + e.2) with
    | some x => mput none y (pg.loc + e.2) (some { x with b := e.1, dirty := false })
    | none => y
  { c with l1 := l.zipIdx.foldl put c.l1 }

/-- L1 owns the grain of all the bytes of [loc, loc + n) (R179). -/
def Core.ownsL1 (c : Core) (loc n : Nat) : Bool :=
  (List.range n).all fun i => match mget none c.l1 (loc + i) with | some x => x.own && x.cc == 2 | none => false

/-- A store is written in L1 alone: its line is private, or coherent and owned, and nothing watches it (R173, R317). -/
def Dev.storesInL1 (m : Dev) (ft : Features) (core : Nat) (pg : Page) (n : Nat) : Bool :=
  pg.cached && (pg.cc == 0 || (pg.cc == 2 && (m.core core).ownsL1 pg.loc n)) && !m.lineWatched pg.loc && m.linkUp ft pg.loc

/-- A core's store to memory (R173, R317): in L1 where that keeps the line as dirty; else at the home, an L1 copy following, and L1 then owns the
coherent grain where nothing watches the line, its copies in slices of other dies being gone (R179). -/
def coreStore (ft : Features) (ag : Agent) (core : Nat) (pg : Page) (va : DWord) (l : List Byte) : Act Unit := do
  let m ← get
  if m.storesInL1 ft core pg l.length then
    snoopHost pg.loc
    modify fun m => ((m.modCore core fun c => c.dirtyL1 pg l).setMarks pg.loc l.length none).recallPods pg.loc l.length
  else
    let _ ← homeAccess ft ag pg va l.length (.store l)
    modify fun m =>
      let m1 := m.modCore core fun c => c.followL1 pg l
      let g := grainSize pg.cg
      if pg.cc == 2 && pg.cached && !m1.lineWatched pg.loc then (m1.dropFarRun (pg.loc / g * g) g).fillL1 core pg true else m1

/-- The faults of an access through a skein carry its virtual address (R298, R456). -/
def atVa {α : Type} (va : Nat) (a : Act α) : Act α :=
  tryCatch a fun e => match e with
    | .flt f => throw (.flt (if f.va = 0 then { f with va := BitVec.ofNat 64 va } else f))
    | .wait => throw .wait

/-- An action on memory by a core's engine: as a miss it takes a request (R19, R176) and asks its home (R180). -/
def asMiss {α : Type} (ft : Features) (ag : Agent) (core : Nat) (pg : Page) (miss takes : Bool) (a : Act α) : Act α :=
  if miss then
    withRequests core ag.requester 1 (atHome ft ag [pg] takes a)
  else a

/-- An engine's read of memory by virtual address: through the skeins (R139), else through L1 and L2, a miss taking a request (R19) and asking its home
(R180). -/
def engRead (ft : Features) (ag : Agent) (core asid va n : Nat) : Act (List Byte) := do
  if 2 ^ 57 ≤ va then actFault (transFlt 0x10 va .read)
  modify fun m => m.freeRequests core ag.requester
  awaitStores core ag.requester va n
  let m ← get
  match (m.core core).route asid va n with
  | some x => atVa va (stashRead ft ag core x n)
  | none =>
    let pg ← translate ft core asid va .read
    recallOwn core asid va n
    let m ← get
    asMiss ft ag core pg (!pg.cached || ((m.core core).l1Bytes pg.loc n).isNone) true (coreLoad ft ag core pg (BitVec.ofNat 64 va) n true)

/-- An engine's write of memory by virtual address. -/
def engWrite (ft : Features) (ag : Agent) (core asid va : Nat) (l : List Byte) : Act Unit := do
  if 2 ^ 57 ≤ va then actFault (transFlt 0x10 va .write)
  modify fun m => m.freeRequests core ag.requester
  awaitStores core ag.requester va l.length
  let m ← get
  match (m.core core).route asid va l.length with
  | some x => atVa va (stashWrite ft ag core x l)
  | none =>
    let pg ← translate ft core asid va .write
    recallOwn core asid va l.length
    let m ← get
    asMiss ft ag core pg (!m.storesInL1 ft core pg l.length) true (coreStore ft ag core pg (BitVec.ofNat 64 va) l)

/-- Reads `n` bytes in pieces of `w` (R198). -/
def engReadMany (ft : Features) (ag : Agent) (core asid va n w : Nat) : Act (List Byte) := do
  let mut out : List Byte := []
  for i in List.range (n / w) do
    let l ← engRead ft ag core asid (va + w * i) w
    out := out ++ l
  return out

end Sys2Proof.Machine
end

