-- ==== Sys2Proof/Machine/Records.lean ====
section
/-! DEFINITION. The device's own records in memory (R23, R282): what keeps one from being reached, how it is written, cleared and read, what agents outside
must answer first (R322, R330), and the kept-map area of block images with the KEPT bits (R36, R271, R276). -/

namespace Sys2Proof.Machine

open Sys2Proof

/-- Why a record at a physical address cannot be reached: no memory backs it (R1, R165), or it is another pod device's and no link leads there (R6, R329). -/
def Dev.recordCause (m : Dev) (ft : Features) (pa : Nat) : Option Nat :=
  if m.isLocal pa then (if m.backed ft pa then none else some 0x10) else if m.linkUp ft pa then none else some 0x1D

/-- The context whose record cannot be reached takes the fault, once: its engine, the walker, and its other fields are the model's (DESIGN CHOICE,
log entry 85). -/
def Dev.recordFault (m : Dev) (asid pa cause : Nat) (wr : Bool) : Dev :=
  if (m.ctx asid).any fun c => c.halt.isNone then
    m.charge asid { engine := .walker, core := 0, slot := 0, addr := 0, word := 0, info0 := 0, info1 := 0 } { Flt.plain cause with pa := pa % 2 ^ 52, wr := wr }
      (.walker false)
  else m

/-! ### What a record's access waits for -/

/-- A run of bytes of the device's records: address and length. -/
abbrev Run := Nat × Nat

/-- A 512-byte block has a byte of the run. -/
def Run.has (r : Run) (block : Nat) : Bool := r.1 / 512 ≤ block && block ≤ (r.1 + r.2 - 1) / 512

/-- The blocks of some runs of which the host may hold a copy, or that another pod device owns. -/
def Dev.outsideIn (m : Dev) (runs : List Run) : List Nat := (m.hostHeld ++ m.podOwned.map fun x => x.2.1).eraseDups.filter fun k => runs.any fun r => r.has k

/-- A segment that holds words of the runs is being filled or written back (R152). -/
def Dev.movingIn (m : Dev) (runs : List Run) : Bool :=
  runs.any fun r => (m.holders r.1 r.2).any fun h =>
    let g := m.seg h.core h.entry h.seg
    g.st == .filling || g.st == .retiring || g.wb.isSome

/-- The records in the runs cannot be had yet: the host or a pod device that owns lines of them has not answered, or a segment that holds words of them has not
landed (R152, R322, R330). -/
def Dev.recordsWait (m : Dev) (runs : List Run) : Bool := !(m.outsideIn runs).isEmpty || m.movingIn runs

/-- The host is snooped, and owning pod devices asked, for the lines of the runs. -/
def Dev.askRuns (m : Dev) (runs : List Run) : Dev := (m.outsideIn runs).foldl (fun x k => x.askOwners true none k) m

/-- An action of the device on its records in the runs: it waits until they can be had. -/
def Dev.onRecords (m : Dev) (runs : List Run) (f : Dev → Dev) : Dev := if m.recordsWait runs then m.askRuns runs else f m

/-! ### Writing and reading -/

/-- No stash holds a word of [pa, pa + n) and no L1 a coherent byte of it. -/
def Dev.recordFree (m : Dev) (pa n : Nat) : Bool :=
  (m.holders pa n).isEmpty && !m.cores.any fun (_, c) => c.l1.any fun e => L1Byte.coherentIn pa n e

/-- The device writes a value of `n` bytes of its own records at a physical address, as a request at its home slice (R23, R151). -/
def Dev.putRecord (m : Dev) (pa n v : Nat) : Dev :=
  let l := toBytes n v
  let m1 := if m.recordFree pa n then m.writeHome 2 0 pa l
    else
      match (homeServe 2 0 pa n (pa / 512 * 512) 512 (2 ^ 13) (.store l) none).go m with
      | (.ok _, m1) => m1
      | (.error _, m1) => m1.writeHome 2 0 pa l
  m1.recallPods pa n

/-- The device writes a list of fields of a context's record: offset from `base`, bytes, value. A record that cannot be reached takes its fault instead.
(DESIGN CHOICE, log entry 85.) -/
def Dev.putFields (m : Dev) (ft : Features) (asid base : Nat) (l : List (Nat × Nat × Nat)) : Dev :=
  match m.recordCause ft base with
  | some c => m.recordFault asid base c true
  | none => l.foldl (fun x e => x.putRecord (base + e.1) e.2.1 e.2.2) m

/-- Some watchpoint is set up, or some thread watches a location. -/
def Dev.watching (m : Dev) : Bool :=
  m.ctxs.any (fun (_, c) => (c.map fun x => !x.wps.isEmpty).getD false) || m.threads.any fun (_, _, _, t) => t.watch.isSome

/-- A service hart writes fields of a context's record (R23, R319): a write that watches see. Which of the sixteen harts does it is a free value.
(DEDUCED, log entry 86.) -/
def Dev.report (m : Dev) (ft : Features) (asid base : Nat) (l : List (Nat × Nat × Nat)) : Dev :=
  let m1 := m.putFields ft asid base l
  if m.watching && (m.recordCause ft base).isNone then
    let ag := (OutsideAgent.hart ((Config.freeWord m.freeCtr).toNat % 16)).agent
    l.foldl (fun (x : Dev) e => x.noteWrite ag (base + e.1) e.2.1) { m1 with freeCtr := m1.freeCtr + 1 }
  else m1

/-- The device zeroes its own records in [pa, pa + n), what stashes, L1 and slices of other dies and pod devices hold of them being given back first (R151,
R330). (DEDUCED, log entry 69.) -/
def Dev.clearRecord (m : Dev) (pa n : Nat) : Dev :=
  let cut (x : L2Block) : L2Block := { x with data := x.data.filter fun (a, _) => a < pa || pa + n ≤ a }
  let m1 := if m.recordFree pa n then m else ((recallAll (m.holders pa n)).go m).2.giveBack pa n (2 ^ 13) true
  Dev.recallPods
    { m1 with
      mem := Memory.clear m1.mem pa n, l2 := m1.l2.map fun (k, b) => (k, b.map cut)
      far := m1.far.filter fun (a, _) => a % 2 ^ 64 < pa || pa + n ≤ a % 2 ^ 64
      poisoned := m1.poisoned.filter fun a => a < pa || pa + n ≤ a } pa n

/-- Reads `n` bytes of a record, from the stash or L1 that holds their current value where one does (R151, R153). -/
def Dev.getRecord (m : Dev) (pa n : Nat) : Nat := ofBytes (m.visible 0 pa n)

/-- 1 or 0. -/
def bit (b : Bool) : Nat := if b then 1 else 0

/-! ### Kept ply maps (R271, R276) -/

/-- Where a block's image lies (R280). -/
def Context.imageAt (c : Context) (slot : Nat) : Nat := (c.pool + 2097152 * slot) % 2 ^ 52

/-- The run of a block's image (R35). -/
def Dev.imageRun (m : Dev) (b : Block) : List Run := match m.ctx b.asid with | some c => [(c.imageAt b.image, 0x1B0000)] | none => []

/-- The run of an image slot's entry in the resident-block list (R282). -/
def Dev.listRun (m : Dev) (asid slot : Nat) : List Run := match m.ctx asid with | some c => [(c.stat + 0x100 + 8 * slot, 8)] | none => []

/-- KEPT: the names whose maps the image holds (R36, R271). -/
def Block.kept (b : Block) : Nat := (List.range 8).foldl (fun n k => if mget .free b.plys k == .saved then n + 2 ^ k else n) 0

/-- Where map `k` lies in an image (R271). -/
def keptAt (k : Nat) : Nat := 0x1A0000 + 0x2000 * k

/-- The entries of a kept map (R271). -/
def mapFields (k : Nat) (p : PlyMap) : List (Nat × Nat × Nat) :=
  let hdr (i : Nat) : Nat := if i < 3 then bitsOf (p.n - 1) (4 * i) 4 else if i < 6 then bitsOf p.r (4 * (i - 3)) 4 else 0
  (List.range (max 6 p.n)).map fun i => (keptAt k + 2 * i, 2, (if i < p.n then p.dest.getD i 0 else 0) + 2 ^ 12 * hdr i)

/-- What a change of a block's names writes in its image: a map that moves to Saved, and KEPT (R276); `none` stands for a block that has ended. -/
def keptFields (old : Block) (new : Option Block) : List (Nat × Nat × Nat) :=
  let now := match new with | some b => b.kept | none => 0
  let moved := match new with | some b => b.saved.filter fun e => !old.saved.contains e | none => []
  if now == old.kept && moved.isEmpty then [] else moved.flatMap (fun e => mapFields e.1 e.2) ++ [(0x30, 8, now)]

/-- An action after which the images of the core's blocks follow the state of their ply names (R276): it waits for the lines that it reads and writes there
(R322). -/
def Dev.withKept (m : Dev) (ft : Features) (core : Nat) (f : Dev → Dev) : Dev :=
  let m1 := f m
  let changed := (m.core core).blocks.filterMap fun b =>
    match m.ctx b.asid, keptFields b (m1.block core b.id) with
    | some c, x :: l =>
      let maps := (b.saved ++ (match m1.block core b.id with | some y => y.saved | none => [])).map fun e => (c.imageAt b.image + keptAt e.1, 0x2000)
      some (c.imageAt b.image, b.asid, x :: l, (c.imageAt b.image + 0x30, 8) :: maps)
    | _, _ => none
  if changed.isEmpty then m1
  else m.onRecords (changed.flatMap fun x => x.2.2.2) fun _ => changed.foldl (fun y x => y.putFields ft x.2.1 x.1 x.2.2.1) m1

/-- The kept copy of a map cannot be read: no memory that can be reached holds it, or its bytes are poisoned or stranded (R278). -/
def Dev.keptUnreadable (m : Dev) (ft : Features) (b : Block) (k : Nat) : Bool :=
  match m.ctx b.asid with
  | some x =>
    let a := x.imageAt b.image + keptAt k
    let n := 2 * max 6 (match mget none (b.saved.map fun e => (e.1, some e.2)) k with | some p => p.n | none => 0)
    (m.recordCause ft a).isSome || m.poisoned.any (fun p => a ≤ p && p < a + n) || (List.range (n / 512 + 1)).any fun i => m.strandedAt (a + 512 * i) (min 512 (n - 512 * i))
  | none => false

end Sys2Proof.Machine
end

