-- ==== Sys2Proof/Machine/Knots.lean ====
section
/-! DEFINITION. Knots (R251, R252, R375 to R379) and the event vectors of contexts (R282, R288): their changes, each one step. -/

namespace Sys2Proof.Machine

open Sys2Proof

/-! ### Knots -/

/-- A knot's four words (R251). -/
structure Knot where
  gen : Nat
  pending : Nat
  expected : Nat
  inbound : Nat
  outbound : Nat
  deriving DecidableEq, Repr

/-- The knot at a stash byte of a core (R251). -/
def Core.knot (c : Core) (x : Nat) : Knot :=
  let w (i : Nat) : Nat := ofBytes (mreadBytes c.stash (x + 4 * i) 4)
  { gen := w 0 % 16, pending := w 0 / 16, expected := w 1, inbound := w 2, outbound := w 3 }

/-- Stores a knot's four words. -/
def Core.putKnot (c : Core) (x : Nat) (k : Knot) : Core :=
  { c with stash := mwriteBytes c.stash x (toBytes 4 (k.gen + 16 * k.pending) ++ toBytes 4 k.expected ++ toBytes 4 k.inbound ++ toBytes 4 k.outbound) }

/-- A thread parked on the knot at stash byte `x` of its core, with another generation than `gen` in its operand, is woken (R252, R379). -/
def Thread.wakeKnot (t : Thread) (x gen : Nat) (away : Bool) : Thread :=
  match t.knotW with
  | some (y, g) => if y == x && g != gen && t.st == .knot then { t with knotW := none }.endWait away else t
  | none => t

/-- Changes every thread of a block; the function learns whether the block is away from its core. -/
def Block.mapThreads (b : Block) (f : Bool → Thread → Thread) : Block :=
  { b with threads := b.threads.map fun (s, t) => (s, f (b.bst == .preempted) t) }

/-- KnotStep (R252): with every count at zero the phase completes, the generation advances and the waiters wake. -/
def Core.knotStep (c : Core) (x : Nat) : Core :=
  let k := c.knot x
  if k.pending = 0 && k.inbound = 0 && k.outbound = 0 then
    let d := c.putKnot x { k with gen := (k.gen + 1) % 16, pending := k.expected % 2 ^ 28 }
    { d with blocks := d.blocks.map fun b => b.mapThreads fun away t => t.wakeKnot x ((k.gen + 1) % 16) away }
  else c

/-- KNINIT on a knot (R252, R377); none where the count is too great. -/
def Core.knotInit (c : Core) (x expected : Nat) : Except Nat Core :=
  if 268435455 < expected then .error 0x10
  else .ok (c.putKnot x { gen := (c.knot x).gen, pending := expected, expected := expected, inbound := 0, outbound := 0 })

/-- KNARR with count `n` (R252, R378), which the tail event of a comet read uses with 1. -/
def Core.knotArrive (c : Core) (x n : Nat) : Except Nat Core :=
  let k := c.knot x
  if k.pending < n then .error 0x19 else .ok ((c.putKnot x { k with pending := k.pending - n }).knotStep x)

/-- A copy is accepted with a knot: its size joins the inbound or outbound count, without a test (R252, R253). -/
def Core.knotCharge (c : Core) (x size : Nat) (inb : Bool) : Except Nat Core :=
  let k := c.knot x
  if 0xFFFFFFFF < (if inb then k.inbound else k.outbound) + size then .error 0x10
  else .ok (c.putKnot x (if inb then { k with inbound := k.inbound + size } else { k with outbound := k.outbound + size }))

/-- A chunk's share leaves the count it was charged to (R252, R253). -/
def Core.knotPay (c : Core) (x size : Nat) (inb : Bool) : Except Nat Core :=
  let k := c.knot x
  if (if inb then k.inbound else k.outbound) < size then .error 0x19
  else .ok ((c.putKnot x (if inb then { k with inbound := k.inbound - size } else { k with outbound := k.outbound - size })).knotStep x)

/-- Some byte of the knot is covered by a skein entry (R251). -/
def Core.knotCovered (c : Core) (x : Nat) : Bool := (List.range 16).any fun i => (c.cover (x + i)).isSome

/-- KnotOperand (R375): the core's stash byte of the knot that an operand names, or the fault's cause. -/
def Core.knotOperand (c : Core) (b : Block) (v : Word) : Except Nat Nat :=
  if knotBad v b.winSize then .error 0x14
  else if c.knotCovered (b.winBase + knotOff v) then .error 0x10
  else .ok (b.winBase + knotOff v)

/-! ### Events (R282, R288) -/

/-- A thread that waits for one of the events that a mask names is woken (R361). -/
def Thread.wakeEvent (t : Thread) (mask : BitVec 256) (away : Bool) : Thread :=
  match t.evW with
  | some k => if mask.getLsbD k && t.st == .event then { t with evW := none }.endWait away else t
  | none => t

/-- Changes every thread of the blocks of a context. -/
def Dev.mapCtxThreads (m : Dev) (asid : Nat) (f : Bool → Thread → Thread) : Dev :=
  { m with cores := m.cores.map fun (i, c) => (i, { c with blocks := c.blocks.map fun b => if b.asid == asid then b.mapThreads f else b }) }

/-- The access changes the event vector (R360). -/
def AccKind.event : AccKind → Bool
  | .evSet | .evClr => true
  | _ => false

/-- A change of event `n` by the thread itself has issued and not been performed. (DEDUCED, log entry 33.) -/
def Core.eventAhead (c : Core) (blk slot n : Nat) : Bool := c.accs.any fun a => a.kind.event && a.blk == blk && a.slot == slot && a.v == n

/-- A thread parked on an event whose own earlier changes of it are all performed: the others read only after those (R288, R361). (DEDUCED, log entry 33.) -/
def Core.eventRead (c : Core) (blk slot : Nat) (t : Thread) : Bool :=
  match t.evW with
  | some n => !c.eventAhead blk slot n
  | none => false

/-- The threads of a context that wait for an event of a mask, and whose read of it has been made, are woken (R288, R361).
(DEDUCED, log entry 33.) -/
def Dev.wakeEvents (m : Dev) (asid : Nat) (mask : BitVec 256) : Dev :=
  let wake (c : Core) (b : Block) : Block :=
    if b.asid == asid then
      { b with threads := b.threads.map fun (s, t) => (s, if c.eventRead b.id s t then t.wakeEvent mask (b.bst == .preempted) else t) }
    else b
  { m with cores := m.cores.map fun (i, c) => (i, { c with blocks := c.blocks.map (wake c) }) }

/-- A chain of a context (R286). -/
def Context.chain (c : Context) (dev : Bool) : Chain := if dev then c.dev else c.main

/-- Changes it. -/
def Context.setChain (c : Context) (dev : Bool) (x : Chain) : Context := if dev then { c with dev := x } else { c with main := x }

/-- A chain's current node, where it is ready and has not started (R286). -/
def Context.readyNode (c : Context) (dev : Bool) : Option Node :=
  match (c.chain dev).node with
  | some n => if !(c.chain dev).started && n.wait &&& ~~~c.events == 0 then some n else none
  | none => none

/-- A chain's ready node starts: its wait bits are consumed where CONS says so, in the same step; a node of the other chain that has started and not begun
its launch is ahead of it (R286, R291). -/
def Context.startReady (c : Context) (dev : Bool) : Context :=
  match c.readyNode dev with
  | some n =>
    let other := c.chain (!dev)
    let ahead := other.started && !other.begun
    let c1 := { c with events := if n.cons then c.events &&& ~~~n.wait else c.events }.setChain dev { c.chain dev with started := true, behind := ahead }
    if ahead then c1.setChain (!dev) { other with behind := false } else c1
  | none => c

/-- The walker tests both chains for readiness, the main chain first (R286, R288). -/
def Context.testChains (c : Context) : Context := (c.startReady false).startReady true

/-- The walker may act for a context: it runs and is not suspended (R303, R308). A replayable fault suspends the walker for the context, both chains of it
(R284; DEDUCED, log entry 94). -/
def Dev.walks (m : Dev) (asid : Nat) : Bool :=
  m.live asid && !m.suspended asid (.walker false) && !m.suspended asid (.walker true) && (match m.ctx asid with | some c => !c.susp | none => false)

/-- The test of readiness that follows every change of the event vector, and a suspension's end (R288). -/
def Dev.testChains (m : Dev) (asid : Nat) : Dev := if m.walks asid then m.modCtx asid Context.testChains else m

/-- A change that sets every event of a mask, in one step: their waiters wake, and the walker tests its chains (R286, R288, R361). (DEDUCED, log entry 33.) -/
def Dev.setEvents (m : Dev) (asid : Nat) (mask : BitVec 256) : Dev :=
  if mask == 0 then m else ((m.modCtx asid fun c => { c with events := c.events ||| mask }).wakeEvents asid mask).testChains asid

/-- A change that sets event `n` of a context (R288). -/
def Dev.setEvent (m : Dev) (asid n : Nat) : Dev := m.setEvents asid (BitVec.twoPow 256 n)

/-- A thread's own change of an event has been performed: where it has parked behind it, it reads the event now (R361). (DEDUCED, log entry 33.) -/
def Dev.readOwnEvent (m : Dev) (asid core blk slot : Nat) : Dev :=
  match m.ctx asid with
  | none => m
  | some x => m.modCore core fun c => c.modBlock blk fun b => b.modThread slot fun t =>
      if c.eventRead blk slot t then t.wakeEvent x.events (b.bst == .preempted) else t

/-- A change that clears event `n` of a context (R288). -/
def Dev.clearEvent (m : Dev) (asid n : Nat) : Dev :=
  (m.modCtx asid fun c => { c with events := c.events &&& ~~~BitVec.twoPow 256 n }).testChains asid

end Sys2Proof.Machine
end

