-- ==== Sys2Proof/Machine/Skeins.lean ====
section
/-! DEFINITION. Skein entries as they are mapped, unmapped, flushed, queried and retired (R141 to R145, R154 to R159, R414 to R417). -/

namespace Sys2Proof.Machine

open Sys2Proof

/-- A descriptor's entry (R141), attached to a block; its window starts at stash byte `win` of the core. -/
def skeinOf (d0 d1 d2 d3 : DWord) (asid blk win : Nat) : Skein :=
  { asid := asid, blk := some blk, base := bitsOf d0.toNat 0 57, stride := bitsOf d1.toNat 0 21, foff := bitsOf d1.toNat 30 18,
    len := bitsOf d1.toNat 52 4 + 1, count := bitsOf d2.toNat 32 19, soff := bitsOf d2.toNat 0 20, mode := bitsOf d1.toNat 50 2, aff := d3,
    win := win, segs := [], leaving := false }

/-- The field code of the first limit of R143 that a descriptor breaks. -/
def skeinShape (d0 d1 d2 : DWord) (e : Skein) (winSize : Nat) : Option Nat :=
  if d0.extractLsb' 57 7 != 0 || bitsOf d1.toNat 56 8 != 0 || bitsOf d1.toNat 48 2 != 0 || bitsOf d1.toNat 21 9 != 0 ||
    bitsOf d2.toNat 51 13 != 0 || bitsOf d2.toNat 20 12 != 0 || e.mode == 3 then some 0x40
  else if e.base % 4 != 0 then some 0x41
  else if e.stride % 4 != 0 || e.stride < 4 || 1048576 < e.stride then some 0x42
  else if e.stride < 4 * (e.foff + e.len) then some 0x43
  else if e.count = 0 || 262144 < e.count then some 0x44
  else if e.soff % 64 != 0 then some 0x45
  else if winSize < e.soff + 64 * e.segCount then some 0x46
  else if 2 ^ 57 < e.base + e.count * e.stride then some 0x47
  else none

/-- Two runs share a number. -/
def overlaps (a n b k : Nat) : Bool := a < b + k && b < a + n

/-- Two entries overlap in the stash, or in the addresses of one context (R144). -/
def Skein.clashes (s e : Skein) : Bool :=
  overlaps s.lo (64 * s.segCount) e.lo (64 * e.segCount) || (s.asid == e.asid && overlaps s.base (s.count * s.stride) e.base (e.count * e.stride))

/-- The new entry for number `k` overlaps another valid one in the stash, or in the addresses of its context (R144). -/
def Core.skeinClash (c : Core) (k : Nat) (e : Skein) : Bool :=
  c.skeins.any fun (j, x) =>
    match x with
    | some s => j != k && s.clashes e
    | none => false

/-- Entry `k` leaves: its dirty segments are Retiring with their data on the way, the others are given up; with nothing on the way the
entry is Free (R154, R157). -/
def Dev.leaveEntry (m : Dev) (core k : Nat) : Dev :=
  match mget none (m.core core).skeins k with
  | none => m
  | some e =>
    let segs := e.segs.filterMap fun (s, g) =>
      let d := (match g.wb with | some (_, l) => l | none => []) ++ m.segData core k s
      if d.isEmpty then none else some (s, { g with st := .retiring, wb := some (m.nextId, d) })
    m.fresh.modCore core fun c =>
      { c with skeins := mput none c.skeins k (if segs.isEmpty then none else some { e with segs := segs, leaving := true }) }

/-- An entry is taken out for another (R144, R159): done once it is Free, else it starts to leave and the caller waits. -/
def retire (core k : Nat) : Act Unit := do
  let m ← get
  match mget none (m.core core).skeins k with
  | none => pure ()
  | some e =>
    if !e.leaving then set (m.leaveEntry core k)
    let m ← get
    if (mget none (m.core core).skeins k).isSome then actWait

/-- The block's window. -/
def Dev.window (m : Dev) (core blk : Nat) : Nat × Nat := match m.block core blk with | some b => (b.winBase, b.winSize) | none => (0, 0)

/-- The number under which the launch data of a block checks its entries. -/
def loadId (blk : Nat) : Nat := 2 ^ 64 + blk

/-- The entries that SKMAPs and launch data of a core have checked and not yet loaded, by number: they count as valid ones for the checks of others. -/
def Dev.skPending (m : Dev) (core : Nat) : List (Nat × Nat × Skein) :=
  ((m.core core).accs.filterMap fun a =>
    a.desc.map fun (d0, d1, d2, d3) => (a.id, a.v, skeinOf d0 d1 d2 d3 a.asid a.blk (m.window core a.blk).1)) ++
  (m.core core).blocks.flatMap fun b => b.todo.filterMap fun i =>
    match i with
    | .loading k d0 d1 d2 d3 => some (loadId b.id, k, skeinOf d0 d1 d2 d3 b.asid b.id b.winBase)
    | _ => none

/-- The checks of R143 and R144 on a descriptor for entry `k` of a block; `id` is the number of the SKMAP, or of the block's launch data. An entry that another
block has checked and not yet loaded counts as attached to it. -/
def Dev.skeinCheck (m : Dev) (core asid blk k id : Nat) (d0 d1 d2 d3 : DWord) : Except Flt Skein :=
  let (base, size) := m.window core blk
  let e := skeinOf d0 d1 d2 d3 asid blk base
  match skeinShape d0 d1 d2 e size with
  | some f => .error (Flt.shape f)
  | none =>
    let other := (match mget none (m.core core).skeins k with
      | some x => match x.blk with | some b => b != blk | none => false
      | none => false) || (m.skPending core).any fun p => p.2.1 == k && p.2.2.blk != some blk
    let clash := (m.core core).skeinClash k e || (m.skPending core).any fun p => p.1 != id && p.2.1 != k && p.2.2.clashes e
    if other || clash then .error (Flt.plain 0x10) else .ok e

/-- A checked entry takes number `k`, whose earlier mapping is retired first (R144, R145). (DEDUCED, log entry 56.) -/
def putSkein (core k : Nat) (e : Skein) : Act Unit := do
  retire core k
  modify fun m => m.modCore core fun c => { c with skeins := mput none c.skeins k (some e) }

/-- SKMAP's effect (R415): the descriptor is read once, with relaxed reads, and checked; then the entry's earlier mapping is retired and the entry is
loaded (R141, R144). (DEDUCED, log entry 31; DEDUCED, log entry 56.) -/
def skMapTry (ft : Features) (core : Nat) (a : Access) (ag : Agent) : Act Unit := do
  let m ← get
  match a.desc with
  | some (d0, d1, d2, d3) => putSkein core a.v (skeinOf d0 d1 d2 d3 a.asid a.blk (m.window core a.blk).1)
  | none =>
    let l ← engReadMany ft ag core a.asid a.va.toNat 32 8
    let d (i : Nat) : DWord := BitVec.ofNat 64 (ofBytes ((l.drop (8 * i)).take 8))
    let m ← get
    match m.skeinCheck core a.asid a.blk a.v a.id (d 0) (d 1) (d 2) (d 3) with
    | .error f => actFault f
    | .ok e =>
      modify fun m => m.modCore core fun c => { c with accs := c.accs.map fun x => if x.id == a.id then { x with desc := some (d 0, d 1, d 2, d 3) } else x }
      putSkein core a.v e

/-- What an entry is to a block (R416, R417): Free, attached to it, attached to another block of its context, detached in its context,
held by another context. -/
def Dev.entryState (m : Dev) (core asid blk k : Nat) : Nat :=
  match mget none (m.core core).skeins k with
  | none => 0
  | some e => if e.asid != asid then 4 else match e.blk with | some b => if b == blk then 1 else 2 | none => 3

/-- SKUNMAP's effect (R416): complete once the entry is Free. -/
def skUnmapTry (core asid blk k : Nat) : Act Unit := do
  let m ← get
  match m.entryState core asid blk k with
  | 0 => pure ()
  | 1 => retire core k
  | 3 => retire core k
  | _ => actFault (Flt.plain 0x10)

/-- The Dirty segments of an entry send their data to the home slices and are Clean (R154); one whose last data is still on its way is
waited for. The block whose thread flushes them is kept with the data: its releases wait for it, whatever becomes of the entry (R155). -/
def flushEntry (core blk k : Nat) : Act Unit := do
  let m ← get
  match mget none (m.core core).skeins k with
  | none => pure ()
  | some e =>
    for (s, g) in e.segs do
      if g.st == .dirty then
        if g.wb.isSome then actWait
        modify fun m =>
          let d := m.segData core k s
          m.fresh.modSeg core k s fun g =>
            { st := .clean, words := g.words.map fun w => { w with dirty := false }, wb := if d.isEmpty then none else some (m.nextId, d), flusher := some blk }

/-- SKFLUSH's effect (R416). -/
def skFlushTry (core asid blk k : Nat) : Act Unit := do
  let m ← get
  match m.entryState core asid blk k with
  | 0 => pure ()
  | 1 => flushEntry core blk k
  | 3 => flushEntry core blk k
  | _ => actFault (Flt.plain 0x10)

/-- SKFLUSH .all: every entry attached to the block (R416). -/
def skFlushAllTry (core blk : Nat) : Act Unit := do
  let m ← get
  for (k, e) in (m.core core).skeins do
    match e with
    | some x => if x.blk == some blk then flushEntry core blk k
    | none => pure ()

/-- SKQUERY's snapshot (R417). -/
def Dev.skSnapshot (m : Dev) (core asid blk k : Nat) : Nat :=
  let st := m.entryState core asid blk k
  let n (f : Seg → Bool) : Nat :=
    match mget none (m.core core).skeins k with
    | some e => (e.segs.filter fun (_, g) => f g).length
    | none => 0
  let counts := n (fun g => g.st == .clean || g.st == .dirty) * 2 ^ 32 + n (fun g => g.st == .dirty) * 2 ^ 16 + n (fun g => g.st == .filling)
  st * 2 ^ 61 + (if st = 0 || st = 4 then 0 else counts)

end Sys2Proof.Machine
end

