-- ==== Sys2Proof/Machine/Access.lean ====
section
/-! DEFINITION. The accesses that words make (R196): when each may be performed (R201, R202, R205, R206, R214 to R216), how it is performed
in the stash, in L1 or at its home, and the requests, retries, walks and publishes that this takes (R151, R176, R180, R211, R313, R325). -/

namespace Sys2Proof.Machine

open Sys2Proof

/-! ### What kinds of accesses are -/

/-- The access reads a value that its thread receives (R196). -/
def AccKind.reads : AccKind → Bool
  | .load | .add | .fadd | .min | .max | .and | .or | .xor | .exch | .inc | .cas | .skQuery => true
  | _ => false

/-- The access may write. -/
def AccKind.wr : AccKind → Bool
  | .load | .fence | .flush | .skQuery => false
  | _ => true

/-- The access is an atomic (R199). -/
def AccKind.atomic : AccKind → Bool
  | .add | .fadd | .min | .max | .and | .or | .xor | .exch | .inc | .cas => true
  | _ => false

/-- The access is a fence (R206). -/
def AccKind.fences : AccKind → Bool
  | .fence | .flush => true
  | _ => false

/-- The access acts on a skein entry: it follows every earlier access of its thread, and every later one follows it (R155, R415).
(DEDUCED, log entry 31.) -/
def AccKind.skein : AccKind → Bool
  | .skMap | .skUnmap | .skFlush | .skFlushAll | .skQuery => true
  | _ => false

/-- The access changes a knot: it is performed before any later access of its thread (R376). (DEDUCED, log entry 32.) -/
def AccKind.knot : AccKind → Bool
  | .knInit | .knArr => true
  | _ => false

/-- The read side is an acquire (R205). -/
def Access.acq (a : Access) : Bool := a.kind.reads && a.order.getLsbD 0

/-- The write side is a release (R205). EVSET releases at system scope (R360), KNARR at core scope (R219). -/
def Access.rel (a : Access) : Bool := (a.kind.wr && a.order.getLsbD 1) || a.kind == .evSet || a.kind == .knArr

/-- The accesses of the same thread that precede this one in program order and are outstanding. -/
def Core.earlier (c : Core) (a : Access) : List Access := c.accs.filter fun x => x.blk == a.blk && x.slot == a.slot && x.id < a.id

/-- The access acts on the stash by offset, or its address touches a skein of the core (R139, R140). -/
def Core.inStash (c : Core) (a : Access) : Bool := a.stash || a.kind.skein || (!a.kind.fences && c.routesAny a.asid a.va.toNat a.n)

/-- Two accesses of one thread that program order keeps apart: to the stash (R140), or to addresses that may be the same bytes (R201). -/
def Core.sameBytes (c : Core) (x a : Access) : Bool :=
  if x.kind.fences || a.kind.fences then false
  else (x.kind.event && a.kind.event) || (c.inStash x && c.inStash a) ||
    (!x.stash && !a.stash && x.va.toNat % 4096 < a.va.toNat % 4096 + a.n && a.va.toNat % 4096 < x.va.toNat % 4096 + x.n)

/-- The unbound operations of a thread in the core's matrix, sweep and ply units that are not complete, words held for them among them: number, and
whether the operation's stash accesses count as the thread's own for its releases (R140, R215, R267; not an MMA's operand reads, R217). -/
def Core.opsOf (c : Core) (blk slot : Nat) : List (Nat × Bool) :=
  let mine (o : Origin) (b : Bool) : List (Nat × Bool) := if o.blk == blk && o.slot == slot && o.bound.isNone then [(o.id, b)] else []
  let held := match c.block blk with
    | some b => (b.thread slot).held.flatMap fun h => match h with
      | .mat o => mine o.org (o.kind == .rd)
      | .sweep o => mine o.org true
      | .ply o => mine o.org true
      | _ => []
    | none => []
  let away := match c.block blk with | some b => (match b.abandoned with | some o => mine o.org true | none => []) | none => []
  (c.matQ.flatMap fun o => mine o.org (o.kind == .rd)) ++ (c.matRun.toList.flatMap fun r => mine r.op.org (r.op.kind == .rd)) ++
    (c.sweepQ.flatMap fun o => mine o.org true) ++ (c.sweepRun.toList.flatMap fun o => mine o.org true) ++
    (c.sweepAside.flatMap fun o => mine o.org true) ++ (c.plyQ.flatMap fun o => mine o.org true) ++
    (c.plyRun.toList.flatMap fun o => mine o.org true) ++ held ++ away

/-- No operation of a thread numbered below `n` is unfinished in the core's units (R215, R216). -/
def Core.opsDone (c : Core) (blk slot n : Nat) : Bool := !(c.opsOf blk slot).any fun x => x.1 < n

/-- No operation whose accesses a release covers is unfinished (R140, R205, R267). -/
def Core.workDone (c : Core) (blk slot n : Nat) : Bool := !(c.opsOf blk slot).any fun x => x.2 && x.1 < n

/-- No copy of a thread numbered below `n` waits to be accepted, held words among them: its knot is charged (R253). -/
def Core.copiesCharged (c : Core) (blk slot n : Nat) : Bool :=
  let mine (o : XferOp) : Bool := o.org.blk == blk && o.org.slot == slot && o.org.id < n && !o.comet
  !c.xferQ.any mine && (match c.block blk with
    | some b => !(b.thread slot).held.any fun h => match h with | .xfer o => mine o | _ => false
    | none => true)

/-- Write-back data of a block's entries, or of one that it has flushed, is on its way (R155). (DEDUCED, log entry 31.) -/
def Core.flushing (c : Core) (blk : Nat) : Bool :=
  c.skeins.any fun (_, e) =>
    match e with
    | some s => s.segs.any fun (_, g) => g.wb.isSome && (s.blk == some blk || s.blk == none || g.flusher == some blk)
    | none => false

/-- The outstanding accesses of a slot numbered below `n` are performed at core scope. -/
def Core.slotDone (c : Core) (blk slot n : Nat) : Bool := !c.accs.any fun x => x.blk == blk && x.slot == slot && x.id < n && !x.coreDone

/-- Of each slot of a list every access numbered below the number, those of its sweep words, ply words and ACCRDs among them, is performed at core scope, and
no write-back data of the block's entries is on its way (R140, R155, R215, R216, R267). -/
def Core.accessesDone (c : Core) (blk : Nat) (after : List (Nat × Nat)) : Bool :=
  after.all fun (s, n) => c.slotDone blk s n && c.workDone blk s n && !c.flushing blk

/-- What an operation in the core's units follows: those accesses, and every operation in the units that the slots issued before (R215, R216). -/
def Core.accsDone (c : Core) (blk : Nat) (after : List (Nat × Nat)) : Bool :=
  after.all fun (s, n) => c.slotDone blk s n && c.opsDone blk s n && !c.flushing blk

/-- A fence that releases (R206). -/
def Access.fenceRel (a : Access) : Bool := a.kind.fences && a.order.getLsbD 1

/-- A fence that acquires (R206). -/
def Access.fenceAcq (a : Access) : Bool := a.kind.fences && a.order.getLsbD 0

/-- An earlier release `x` still holds a later acquire `a` back (R209): unless one of the two is at core scope and `x` is performed there. -/
def Access.relAhead (x a : Access) : Bool := (x.rel || x.fenceRel) && !(x.coreDone && (x.scope == 0 || a.scope == 0))

/-- What a release covers is performed at its scope (R205, R206, R214). -/
def Core.relReady (c : Core) (a : Access) : Bool :=
  let es := c.earlier a
  (if a.scope == 0 then es.all (fun x => x.coreDone) else es.isEmpty && a.wideDone) && c.workDone a.blk a.slot a.id && !c.flushing a.blk

/-- The same KNARR or skein word of a member in a lower block slot is outstanding: the members act in ascending slot order (R378, R414). -/
def Core.lowerSlot (c : Core) (a : Access) : Bool :=
  (a.kind.skein || a.kind == .knArr) && c.accs.any fun x =>
    x.kind == a.kind && x.blk == a.blk && x.addr == a.addr && x.pos == a.pos && x.slot < a.slot && x.id < a.id

/-- An access may be performed: everything that the ordering rules place before it is performed.
(DEDUCED, log entry 24; DESIGN CHOICE, log entry 28; DEDUCED, log entry 32.) -/
def Core.gate (c : Core) (a : Access) (acq : List (Nat × Nat)) : Bool :=
  let es := c.earlier a
  !c.lowerSlot a && !es.any (fun x => c.sameBytes x a || x.acq || x.kind.skein || a.kind.skein || x.kind.knot || x.fenceAcq || (x.kind.fences && a.kind.wr)) &&
    (!a.kind.wr || !es.any fun x => x.kind.reads) &&
    (!(a.acq || a.fenceAcq) || !es.any fun x => x.relAhead a) &&
    (!(a.rel || a.fenceRel) || c.relReady a) &&
    (!a.fenceAcq || (!es.any (fun x => x.kind.reads) && c.workDone a.blk a.slot a.id)) && (!(a.kind.fences || a.kind == .skQuery) || !c.flushing a.blk) &&
    (a.kind != .flush || es.isEmpty) && (a.kind != .knArr || (es.isEmpty && c.copiesCharged a.blk a.slot a.id)) &&
    c.accessesDone a.blk acq && (a.stash || a.kind.fences || a.kind.event || !c.storesAhead a.va.toNat a.n) &&
    (!c.inStash a || c.opsDone a.blk a.slot a.id)

/-! ### Values -/

/-- The new value of an atomic; none where it writes nothing (R345, R353). -/
def atomicNew (k : AccKind) (signed : Bool) (n old v cmp : Nat) : Option Nat :=
  let w := 8 * n
  let less (x y : Nat) : Bool := if signed then signExtend x w < signExtend y w else x < y
  match k with
  | .add => some ((old + v) % 2 ^ w)
  | .fadd => some (f32Add false (BitVec.ofNat 32 old) (BitVec.ofNat 32 v)).toNat
  | .min => some (if less v old then v else old)
  | .max => some (if less old v then v else old)
  | .and => some (old &&& v)
  | .or => some (old ||| v)
  | .xor => some (old ^^^ v)
  | .exch => some v
  | .inc => some (if v ≤ old then 0 else (old + 1) % 2 ^ w)
  | .cas => if old = cmp then some v else none
  | _ => none

/-- What an access asks of its home. -/
def Access.homeOp (a : Access) : HomeOp :=
  match a.kind with
  | .load => .load
  | .store => .store (toBytes a.n a.v)
  | k => .rmw fun old => atomicNew k (a.ty == 6 || a.ty == 7) a.n old a.v a.cmp

/-- What an access needs of its page (R172, R346). -/
def Access.need (a : Access) : Need :=
  match a.kind with
  | .load => .read
  | .store => .write
  | _ => .both

/-- The charge of an access's faults: the SIMT engine, its word (R298). -/
def Access.charge (a : Access) (core : Nat) : Charge :=
  { engine := .simt, core := core, slot := a.slot, addr := a.addr, word := a.word, info0 := BitVec.ofNat 32 a.pos, info1 := 0, op := a.id }

/-! ### Performing -/

/-- Changes an outstanding access. -/
def Dev.modAcc (m : Dev) (core id : Nat) (f : Access → Access) : Dev :=
  m.modCore core fun c => { c with accs := c.accs.map fun a => if a.id == id then f a else a }

/-- An access has been performed: it leaves the core, and its thread's pending write has its value. -/
def Dev.finish (m : Dev) (core : Nat) (a : Access) (old : List Byte) : Dev :=
  let m1 := (m.modCore core fun c => { c with accs := c.accs.filter fun x => x.id != a.id }).freeRequests core (threadAgent a.asid (a.charge core)).requester
  if a.kind.reads then m1.modThread core a.blk a.slot fun t => t.obtain a.id (loadWords (BitVec.ofNat 4 a.ty) a.n (ofBytes old))
  else if a.kind.event then m1.readOwnEvent a.asid core a.blk a.slot
  else m1

/-- The cache work of FENCE .flush (R178). -/
def Dev.flushWork (m : Dev) (core : Nat) (scope : BitVec 2) : Dev :=
  let m1 := m.dropL1 core fun _ e => e.cc == 3 && !e.dirty
  let m2 := if scope == 0 then m1 else m1.flushPrivate core
  if scope == 3 then
    (m2.l2.filter fun (k, b) => match b with | some x => x.cls == 0 && !m2.isLocal (512 * k) | none => false).foldl (fun x e => x.flushL2 e.1) m2
  else m2

/-- The bytes that the access performs next (R198): all of them, or one 8-byte half of a .b128 access, the lower first (DESIGN CHOICE, log entry 100). -/
def Access.part (a : Access) : Access :=
  if a.n = 16 && (a.kind == .load || a.kind == .store) then
    match a.half with
    | none => { a with n := 8, v := a.v % 2 ^ 64 }
    | some _ => { a with va := a.va + 8, n := 8, v := a.v / 2 ^ 64 }
  else a

/-- A part of an access has been performed, with its old bytes: the whole access is, or the first half of a .b128 access (R198). -/
def Access.performed (core : Nat) (a : Access) (old : List Byte) : Act (Option (List Byte)) := do
  if a.part.n == a.n then return some old
  match a.half with
  | some h => return some (toBytes 8 h ++ old)
  | none =>
    modify fun m => m.modAcc core a.id fun x => { x with half := some (ofBytes old) }
    return none

/-- The mark that a write of the access leaves on the bytes of a coherent page (R211). -/
def Access.markOf (a : Access) (core : Nat) (m : Dev) : Option (Nat × Nat) := if a.mark then some (core, a.early.getD m.nextId) else none

/-- The requester that an access is to the home slices. -/
def Access.requester (a : Access) (core : Nat) : Requester := { core := core, unit := 0, asid := a.asid, id := a.id }

/-- An access that has passed translation leaves its core with the leaf it used: a store to a page that is not compressed is performed at core scope
from here on (R200; DESIGN CHOICE, log entry 28). -/
def Access.sendHome (a : Access) (l : Leaf) (pg : Page) (n : Nat) : Access :=
  { a with phase := .home, leaf := some (l.entry a.asid), early := if a.kind == .store && pg.comp.isNone then some n else none }

/-- An outstanding access is tried (R139): done, with the old bytes, or sent on its way. (DEDUCED, log entry 29.) -/
def accessTry (ft : Features) (core : Nat) (a : Access) : Act (Option (List Byte)) := do
  let m ← get
  let ag := threadAgent a.asid (a.charge core)
  let base := match m.block core a.blk with | some b => b.winBase | none => 0
  match a.kind with
  | .fence => return some []
  | .flush => set (m.flushWork core a.scope); return some []
  | .evSet => set ((m.flushPrivate core).setEvent a.asid a.v); return some []
  | .evClr => set (m.clearEvent a.asid a.v); return some []
  | .skMap => skMapTry ft core a ag; return some []
  | .skUnmap => skUnmapTry core a.asid a.blk a.v; return some []
  | .skFlush => skFlushTry core a.asid a.blk a.v; return some []
  | .skFlushAll => skFlushAllTry core a.blk; return some []
  | .skQuery => return some (toBytes 8 (m.skSnapshot core a.asid a.blk a.v))
  | .knInit =>
    match (m.core core).knotInit (base + a.va.toNat) a.v with
    | .ok c => set (m.setCore core c); return some []
    | .error e => actFault (Flt.plain e)
  | .knArr =>
    match (m.core core).knotArrive (base + a.va.toNat) a.v with
    | .ok c => set (m.setCore core c); return some []
    | .error e => actFault (Flt.plain e)
  | _ =>
    let plainAcc := !a.kind.atomic
    let p := a.part
    match (if a.stash then some (base + a.va.toNat) else if plainAcc then (m.core core).route a.asid a.va.toNat a.n else none) with
    | some x =>
      let x := x + (p.va.toNat - a.va.toNat)
      if a.kind == .load then
        let l ← stashRead ft ag core x p.n
        Access.performed core a l
      else
        stashWrite ft ag core x (toBytes p.n p.v)
        modify fun m => m.markStash core x p.n (a.markOf core m)
        Access.performed core a []
    | none =>
      match (m.core core).tlbFind a.asid a.va.toNat with
      | none => set ({ m with nextId := m.nextId + 1 }.modAcc core a.id fun x => { x with phase := .walk, asked := m.nextId }); return none
      | some l =>
        match m.checkLeaf ft l a.asid p.va.toNat a.need with
        | .error c => actFault (transFlt c a.va.toNat a.need)
        | .ok pg =>
          recallOwn core a.asid a.va.toNat a.n
          let m ← get
          if a.kind == .load && pg.cached && a.hint != 3 && ((m.core core).l1Bytes pg.loc p.n).isSome then
            Access.performed core a (((m.core core).l1Bytes pg.loc p.n).getD [])
          else if a.kind == .store && m.storesInL1 ft core pg p.n then
            coreStore ft ag core pg p.va (toBytes p.n p.v)
            if pg.cc == 2 then modify fun m => m.setMarks pg.loc p.n (a.markOf core m)
            Access.performed core a []
          else if 1024 ≤ (m.core core).requests then actWait
          else if a.kind.atomic && pg.cc == 3 && !isDevLoc pg.loc && pg.comp.isNone then
            if !m.linkUp ft pg.loc then actFault { transFlt 0x1D a.va.toNat a.need with pa := pg.loc % 2 ^ 52 }
            set ((m.dropL1 core fun y _ => y / 128 == pg.loc / 128).modAcc core a.id fun x => { x with phase := .atomicOp none, leaf := some (l.entry a.asid) })
            return none
          else
            set (m.fresh.modAcc core a.id fun x => x.sendHome l pg m.nextId)
            return none

/-- What an operation on an access leaves behind: done, waiting, or faulted (R46, R302); one that a fault suspends has had its reply, so that its request is free
again, and its claim is over (R176, R181). -/
def Dev.settleAcc (_m : Dev) (core : Nat) (a : Access) (r : Except Stop (Option (List Byte)) × Dev) : Dev :=
  match r with
  | (.ok (some old), m1) => m1.finish core a old
  | (.ok none, m1) => m1
  | (.error .wait, m1) => m1
  | (.error (.flt f), m1) =>
    let m2 := m1.charge a.asid (a.charge core) { f with va := if a.stash then f.va else if f.va == 0 then a.va else f.va } (.access core a.id)
    if f.nr then
      (m2.modCore core fun c => { c with accs := c.accs.filter fun x => x.id != a.id }).modThread core a.blk a.slot fun t =>
        if t.inCourse then { t with stopped := true } else t
    else
      { m2.modAcc core a.id fun x => if x.phase == .home then { x with phase := .new, leaf := none } else x with
        home := { m2.home with claims := m2.home.claims.filter fun x => x.req != a.requester core } }

/-- An outstanding access. -/
def Core.access (c : Core) (id : Nat) : Option Access := c.accs.find? fun a => a.id == id

/-- What an operation of the thread with a number follows because of stitch phases that it has been woken from before (R216): of each slot the
accesses numbered below a number. An operation numbered below the thread's own SIGN has issued before the wake, and acquires nothing by it.
(DEDUCED, log entry 23.) -/
def Thread.acquired (t : Thread) (id : Nat) : List (Nat × Nat) := (t.acq.filter fun x => x.1 < id).map (·.2)

/-- The accesses that an access follows because of stitch phases (R216). (DEDUCED, log entry 23.) -/
def Dev.acqOf (m : Dev) (core : Nat) (a : Access) : List (Nat × Nat) :=
  match m.thread core a.blk a.slot with
  | some t => t.acquired a.id
  | none => []

/-- Tries an access that waits to be performed: where the ordering rules allow it and no fault has suspended it. -/
def Dev.tryAccess (m : Dev) (ft : Features) (core id : Nat) : Dev :=
  match (m.core core).access id with
  | none => m
  | some a =>
    if a.phase != .new || m.suspended a.asid (.access core id) || !(m.core core).gate a (m.acqOf core a) then m
    else m.settleAcc core a ((accessTry ft core a).go m)

/-- Tries every access of a core in issue order. -/
def Dev.pump (m : Dev) (ft : Features) (core : Nat) : Dev := ((m.core core).accs.map fun a => a.id).foldl (fun x i => x.tryAccess ft core i) m

/-- Nothing that a wide release waits for is outstanding: its thread's earlier accesses and operations, those that its wakes have acquired, and every write
that the core had performed at core scope before the number (R208, R214, R216). -/
def Core.wideReady (c : Core) (a : Access) (acq : List (Nat × Nat)) (n : Nat) : Bool :=
  (c.earlier a).isEmpty && c.workDone a.blk a.slot a.id &&
    acq.all (fun (s, k) => !c.accs.any (fun x => x.blk == a.blk && x.slot == s && x.id < k) && c.workDone a.blk s k) &&
    !c.accs.any fun x => match x.early with | some k => k < n | none => false

/-- The access is a release at core scope (R211). -/
def Access.narrow (a : Access) : Bool := a.scope == 0 && (a.rel || a.fenceRel)

/-- An access as a word issues it: with the next number; it knows whether a release at core scope of its thread precedes it, or it is one (R211), and whether
a wide release would find nothing outstanding (R214). -/
def Dev.numbered (m : Dev) (cu : Cursor) (a : Access) : Access :=
  let before := match m.thread cu.core cu.blk cu.slot with | some t => t.narrowRel | none => false
  let a := { a with id := m.nextId, mark := a.narrow || before }
  { a with wideDone := (m.core cu.core).wideReady a (m.acqOf cu.core a) m.nextId }

/-- An access joins the core's outstanding ones, and its destination becomes pending (R74); a release at core scope is remembered by the thread (R211). -/
def Dev.joinAcc (m : Dev) (cu : Cursor) (a : Access) (dst : List Nat) : Dev :=
  let m1 := m.fresh.modCore cu.core fun c => { c with accs := c.accs ++ [m.numbered cu a] }
  m1.modThread cu.core cu.blk cu.slot fun t =>
    let t1 := if dst.isEmpty then t else t.addPend m.nextId dst
    if a.narrow then { t1 with narrowRel := true } else t1

/-- An access issues: it joins the core's outstanding accesses, and it is tried at once. -/
def Dev.issueAcc (m : Dev) (ft : Features) (cu : Cursor) (a : Access) (dst : List Nat) : Dev := (m.joinAcc cu a dst).tryAccess ft cu.core m.nextId

/-! ### At the home -/

/-- A request at its home slice (R151, R180, R199, R211): refused, held for a publish, or performed. -/
def homeTry (ft : Features) (core : Nat) (a : Access) (never : Bool) : Act (Option (List Byte)) := do
  let m ← get
  let ag := threadAgent a.asid (a.charge core)
  match a.leaf with
  | none => set (m.modAcc core a.id fun x => { x with phase := .new }); return none
  | some e =>
    let p := a.part
    let pg := e.leaf.pageOf a.asid p.va.toNat
    let takes := a.kind != .load || (pg.cached && a.hint != 3)
    if !never && m.changesGrain pg takes && m.refuses (a.requester core) pg then
      set ((m.claim ft (a.requester core) pg a.refusals).modAcc core a.id
        fun x => { x with phase := .refused (backoff (a.refusals + 1)), refusals := a.refusals + 1 })
      return none
    else if a.kind != .store && pg.cc == 2 && !(m.publishers core pg.loc p.n).isEmpty then
      set (m.modAcc core a.id fun x => { x with phase := .publish })
      return none
    else
      recallOwn core a.asid a.va.toNat a.n
      let old ← match a.kind with
        | .load => coreLoad ft ag core pg p.va p.n (a.hint != 3)
        | .store => do
          coreStore ft ag core pg p.va (toBytes p.n p.v)
          pure []
        | _ => do
          modify fun x => x.dropL1 core fun y _ => y / 128 == pg.loc / 128
          homeAccess ft ag pg p.va p.n a.homeOp
      modify fun x =>
        let x1 := x.unclaim (a.requester core) pg.loc
        if pg.cc == 2 && a.kind.wr && (a.kind == .store || a.mark) && (a.kind != .cas || ofBytes old == a.cmp) then x1.setMarks pg.loc p.n (a.markOf core x1)
        else x1
      Access.performed core a old

/-- One attempt of a request at its home. -/
def Dev.homeStep (m : Dev) (ft : Features) (core id : Nat) (never : Bool) : Dev :=
  match (m.core core).access id with
  | none => m
  | some a => if m.suspended a.asid (.access core id) then m else m.settleAcc core a ((homeTry ft core a never).go m)

/-- Publishes the writes that a core had performed at core scope before a number (R211, R213); never refused. A .b128 store takes two steps.
(DEDUCED, log entry 72.) -/
def Dev.publish (m : Dev) (ft : Features) (core s : Nat) : Dev :=
  let ids (m : Dev) : List Nat := ((m.core core).accs.filter fun a => match a.early with | some k => k < s | none => false).map fun a => a.id
  let once (m : Dev) : Dev := (ids m).foldl (fun x i => x.homeStep ft core i true) m
  once (once m)

/-- The forced publishes that a core owes are performed (R211, R213). -/
def Dev.publishForced (m : Dev) (ft : Features) (core : Nat) : Dev :=
  let mine := m.home.forced.filter fun x => x.1 == core
  let m1 := mine.foldl (fun (x : Dev) (p : Nat × Nat) => x.publish ft p.1 p.2) m
  { m1 with home := { m1.home with forced := m1.home.forced.filter fun x => x.1 != core } }

/-- An access that waits for a forced publish may be performed once it is over. -/
def Dev.publishFor (m : Dev) (ft : Features) (loc n : Nat) : Dev :=
  (m.publishers (2 ^ 13) loc n).foldl (fun x (c, s) => x.publish ft c s) m

end Sys2Proof.Machine
end

