-- ==== Sys2Proof/Machine/Stitch.lean ====
section
/-! DEFINITION. Stitch registers (R37, R51 to R56): membership, completion, timeouts, posted operations (R53, R66, R227); the exit of
threads (R362), the tail events of comet reads (R257) and the exit of blocks (R363). -/

namespace Sys2Proof.Machine

open Sys2Proof

/-! ### Registers and sets -/

/-- A stitch register of a block. -/
def Block.stitch (b : Block) (k : Nat) : Stitch := mget Fresh.stitch b.stitches k

/-- Changes a stitch register of a block. -/
def Block.modStitch (b : Block) (k : Nat) (f : Stitch → Stitch) : Block := { b with stitches := mput Fresh.stitch b.stitches k (f (b.stitch k)) }

/-- Member of R52: every thread in count form; in mask form the block slots BASE + i of the mask, up to 2,047. -/
def Stitch.member (s : Stitch) (slot : Nat) : Bool :=
  !s.mask || (s.base ≤ slot && slot < s.base + 64 && slot ≤ 2047 && s.memb.getLsbD (slot - s.base))

/-- Complete of R52: the count is reached, or every member that has not exited has signed (R51, R55). A comet thread that starts in the slot of an exited
member counts as a member (DEDUCED, log entry 83). -/
def Block.phaseFull (b : Block) (k : Nat) : Bool :=
  let s := b.stitch k
  s.open_ && (s.decl || s.setr) &&
    (if s.mask then
      (List.range 64).all fun i => !s.memb.getLsbD i || 2047 < s.base + i || s.signed.getLsbD i || (b.thread (s.base + i)).st == .exited
    else s.cnt ≤ s.count)

/-! ### Posted operations -/

/-- The operation's identification. -/
def Posted.org (p : Posted) : Origin :=
  match p with
  | .mat o => o.org
  | .ply o => o.org
  | .knarr o _ _ => o

/-- Changes it. -/
def Posted.modOrg (p : Posted) (f : Origin → Origin) : Posted :=
  match p with
  | .mat o => .mat { o with org := f o.org }
  | .ply o => .ply { o with org := f o.org }
  | .knarr o off n => .knarr (f o) off n

/-- The charge of an operation's faults (R298). -/
def Origin.charge (o : Origin) (engine : Engine) (core : Nat) (info0 info1 : Word) : Charge :=
  { engine := engine, core := core, slot := o.slot, addr := o.addr, word := o.word, info0 := info0, info1 := info1, op := o.id }

/-! ### Words held for a full queue (R227, R246, R265, R424) -/

/-- The queues of a core that hold words back: matrix, sweep, ply, transfer. -/
inductive HeldFor where
  | mat | sweep | ply | xfer
  deriving DecidableEq, Repr

/-- The number of a held word that waits for a queue. -/
def HeldWord.waits (h : HeldWord) (q : HeldFor) : Option Nat :=
  match h, q with
  | .mat o, .mat => some o.org.id
  | .sweep o, .sweep => some o.org.id
  | .ply o, .ply => some o.org.id
  | .xfer o, .xfer => some o.org.id
  | _, _ => none

/-- The number of a bound operation that waits for a queue. -/
def Posted.waits (p : Posted) (q : HeldFor) : Option Nat :=
  match p, q with
  | .mat o, .mat => some o.org.id
  | .ply o, .ply => some o.org.id
  | _, _ => none

/-- The bound operations that a stitch register still has waiting for a queue. -/
def Stitch.backlog (s : Stitch) : List Posted := match s.bound with | .waiting ps => ps | _ => []

/-- The operations issued by the blocks on a core that wait for room in a queue. Those of a block that is away keep no place: later operations of other blocks
pass them (DESIGN CHOICE, log entry 101). -/
def Core.heldFor (c : Core) (q : HeldFor) : List Nat :=
  (c.blocks.filter fun b => b.bst == .running || b.bst == .exited).flatMap fun b =>
    (b.threads.flatMap fun (_, t) => t.held.filterMap fun h => h.waits q) ++ b.stitches.flatMap fun (_, s) => s.backlog.filterMap fun p => p.waits q

/-- Operations enter a queue in the order in which they issue: the one numbered `id` may where none issued before it waits (R227). -/
def Core.turnFor (c : Core) (q : HeldFor) (id : Nat) : Bool := (c.heldFor q).all fun k => id ≤ k

/-- An arrival on a knot, whose underflow is charged to a thread (R252, R378). -/
def Dev.arriveKnot (m : Dev) (core asid : Nat) (ch : Charge) (x n : Nat) : Dev :=
  match (m.core core).knotArrive x n with
  | .ok c => m.setCore core c
  | .error e => m.charge asid ch (Flt.plain e) (.access 0 0)

/-- A bound operation enters its queue where there is room and its turn has come; a bound arrival, a release at core scope (R211), is made once the accesses
of the signers are performed at core scope and their copies and its poster's are accepted (R53, R216, R219, R227, R253). -/
def Dev.enterBound (m : Dev) (core blk : Nat) (p : Posted) : Option Dev :=
  let c := m.core core
  match p with
  | .mat o => if c.matQ.length < 128 && c.turnFor .mat o.org.id then some (m.setCore core { c with matQ := c.matQ ++ [o] }) else none
  | .ply o => if c.plyQ.length < 64 && c.turnFor .ply o.org.id then some (m.setCore core { c with plyQ := c.plyQ ++ [o] }) else none
  | .knarr o x n =>
    if c.accessesDone blk o.after && !c.flushing blk && (((o.slot, o.id) :: o.after).all fun u => c.copiesCharged blk u.1 u.2) then
      (m.block core blk).map fun b =>
        (m.arriveKnot core b.asid (o.charge .simt core (BitVec.ofNat 32 o.pos) 0) x n).modThread core blk o.slot fun t => { t with narrowRel := true }
    else none

/-- Bound operations enter their queues in the order in which their phases completed. -/
def Dev.drainBound (m : Dev) (core blk k : Nat) (ps : List Posted) : Dev :=
  match ps with
  | [] => m
  | p :: r =>
    match m.enterBound core blk p with
    | some m1 =>
      (m1.modBlock core blk fun b => b.modStitch k fun s => { s with bound := if r.isEmpty then .running p.org.id else .waiting r }).drainBound core blk k r
    | none => m.modBlock core blk fun b => b.modStitch k fun s => { s with bound := .waiting (p :: r) }

/-- The bound operations of a stitch register that wait for a full queue are tried, while the context runs (R303). -/
def Dev.retryBound (m : Dev) (core blk k : Nat) : Dev :=
  match m.block core blk with
  | some b => if m.live b.asid then m.drainBound core blk k (b.stitch k).backlog else m
  | none => m

/-- The matrix or ply operation with a number is not complete (R66). -/
def Core.opActive (c : Core) (id : Nat) : Bool :=
  c.matQ.any (fun o => o.org.id == id) || c.matRun.any (fun r => r.op.org.id == id) || c.plyQ.any (fun o => o.org.id == id) ||
    c.plyRun.any (fun o => o.org.id == id) || c.blocks.any fun b => b.abandoned.any fun o => o.org.id == id

/-- The stitch wait of R66 holds. (DEDUCED, log entry 22.) -/
def Core.stitchReady (c : Core) (b : Block) (k : Nat) : Bool :=
  match (b.stitch k).bound with
  | .none => true
  | .waiting _ => false
  | .running id => !c.opActive id

/-- A bound operation is posted to the open phase, or opens one; a second post takes "double sign" (R53). -/
def Env.post (e : Env) (k : Nat) (p : Posted) (m : Dev) : Dev :=
  if (e.blk.stitch k).posted.isSome then e.fault m (Flt.plain 0x18)
  else
    m.modBlock e.cu.core e.cu.blk fun b => b.modStitch k fun s =>
      { s with posted := some p, open_ := true, poster := e.cu.slot, postPc := e.cu.addr + BitVec.ofNat 64 (8 * (e.cu.pos + 1)) }

/-! ### Phases -/

/-- A signer's wait ends with a status (R52, R54): its status register's write arrives, and with status 0 the thread has acquired the
accesses of every signer before its SIGN (R216). (DEDUCED, log entry 23.) -/
def Thread.signed (t : Thread) (k : Nat) (v : Word) (signers : List (Nat × Nat)) (away : Bool) : Thread :=
  let t1 := { t with sgn := t.sgn &&& ~~~BitVec.twoPow 16 k, tmo := none, acq := if v == 0 then signers.map (fun u => (t.signPend, u)) ++ t.acq else t.acq }
  ((t1.obtain t.signPend [v]).arriveId t.signPend).endWait away

/-- A posted operation issues as its phase completes (R53): it takes its number in issue order, and follows the signers' accesses (R216). -/
def Posted.issue (p : Posted) (k id : Nat) (signers : List (Nat × Nat)) : Posted :=
  match p with
  | .knarr _ _ _ => p.modOrg fun o => { o with after := signers, bound := some k }
  | _ => p.modOrg fun o => { o with id := id, after := signers, bound := some k }

/-- What the completion of a phase passes on (R208, R216): the signers' accesses before their SIGNs, and those that the signers had acquired before them and
that are not yet performed. (DEDUCED, log entry 23.) -/
def Core.passedOn (c : Core) (b : Block) (signers : List (Nat × Nat)) : List (Nat × Nat) :=
  signers ++ ((signers.flatMap fun u => (b.thread u.1).acquired u.2).filter fun u => !c.accsDone b.id [u]).eraseDups

/-- CompletePhase of R52. (DEDUCED, log entry 22.) -/
def Dev.completePhase (m : Dev) (core blk k : Nat) : Dev :=
  match m.block core blk with
  | none => m
  | some b =>
    let s := b.stitch k
    let after := (m.core core).passedOn b s.signers
    let m1 := m.modBlock core blk fun x =>
      (s.signers.foldl (fun (y : Block) u => y.modThread u.1 fun t => t.signed k 0 after (b.bst == .preempted)) x).modStitch k fun s =>
        { s with signed := 0, count := 0, signers := [], posted := none, setr := false, open_ := s.decl }
    match s.posted with
    | some p => m1.fresh.drainBound core blk k (s.backlog ++ [p.issue k m1.nextId after])
    | none => m1

/-- A timer that has run out withdraws its thread's signature (R54). (DEDUCED, log entry 70.) -/
def Dev.signExpire (m : Dev) (core blk slot : Nat) : Dev :=
  m.modBlock core blk fun b =>
    let t := b.thread slot
    if t.st == .stitch && t.tmo == some 0 then
      (b.modStitch t.wst fun s =>
        { s with
          signers := s.signers.filter (fun u => u.1 != slot), count := s.count - 1
          signed := if s.mask then s.signed &&& ~~~BitVec.twoPow 64 (slot - s.base) else s.signed }).modThread slot fun t => t.signed t.wst 1 [] (b.bst == .preempted)
    else b

/-- The set operands of a SIGN, where they are read (R412). -/
structure SignSet where
  mask : Bool
  cnt : Nat
  base : Nat
  memb : DWord
  deriving DecidableEq, Repr

/-- The field code of a set that breaks R412. -/
def signBad (mask : Bool) (n base : Word) : Option Nat :=
  if mask then (if 2048 ≤ base.toNat then some 0x91 else none) else if 2048 < n.toNat then some 0x90 else none

/-- SignStitch of R52, as the member leaves its clause; a SIGN is a release at core scope (R211, R216). CNT of a mask set that a SIGN records is 1
(DESIGN CHOICE, log entry 82). -/
def Env.sign (e : Env) (k d : Nat) (set : SignSet) (tmo : Nat) (m : Dev) : Dev :=
  let s0 := e.blk.stitch k
  let s1 := if s0.decl || s0.setr then { s0 with open_ := true }
    else { s0 with open_ := true, setr := true, mask := set.mask, cnt := max 1 set.cnt, base := set.base, memb := set.memb }
  let pc := nextClause e.cu.addr e.cu.hdr
  let m1 := m.modBlock e.cu.core e.cu.blk fun b => b.modStitch k fun _ => s1
  let slot := e.cu.slot
  if !s1.member slot then e.mod m1 fun t => (t.setReg d 2).leave pc
  else if (e.blk.thread slot).sgn.getLsbD k then e.fault m1 (Flt.plain 0x18)
  else
    let id := m1.nextId
    let m2 := m1.fresh.modBlock e.cu.core e.cu.blk fun b =>
      (b.modStitch k fun s =>
        { s with
          signers := s.signers ++ [(slot, id)], count := s.count + 1
          signed := if s.mask then s.signed ||| BitVec.twoPow 64 (slot - s.base) else s.signed }).modThread slot fun t =>
        { (t.addPend id [d]).park pc .stitch with
          narrowRel := true
          sgn := t.sgn ||| BitVec.twoPow 16 k, wst := k, signPend := id, tmo := if tmo = 0 then none else some tmo }
    match m2.block e.cu.core e.cu.blk with
    | some b => if b.phaseFull k then m2.completePhase e.cu.core e.cu.blk k else m2
    | none => m2

/-! ### Exit -/

/-- Every burst of a comet read has landed, every handler has exited, and their accesses are performed (R220, R257). (DEDUCED, log entry 60.) -/
def Core.readOver (c : Core) (r : CometRun) : Bool :=
  r.toRequest.isEmpty && r.inFlight.isEmpty && r.landed.isEmpty && r.ended == r.bursts && c.accessesDone r.org.blk r.ending

/-- The tail event of a comet read (R257): the token's value is there, the knot receives its arrival, and the read is over. A read whose arrival faults stays
for the stop record that describes it (R458). (DEDUCED, log entry 60.) -/
def Dev.tailEvent (m : Dev) (core : Nat) (r : CometRun) : Dev :=
  let m1 := m.modThread core r.org.blk r.org.slot fun t => t.obtain r.pend [BitVec.ofNat 32 (0x80000000 + r.cid % 2 ^ 24)]
  let gone (x : Dev) : Dev := x.modCore core fun c => { c with comets := c.comets.filter fun x => x.org.id != r.org.id }
  match r.kn, m.block core r.org.blk with
  | some x, some b =>
    match (m1.core core).knotArrive x 1 with
    | .ok c => gone (m1.setCore core c)
    | .error e => m1.charge b.asid (r.org.charge .comet core (BitVec.ofNat 32 r.cid) 0) (Flt.plain e) (.access 0 0)
  | _, _ => gone m1

/-- Every comet read of a core that is over has its tail event, while its context runs. -/
def Dev.tails (m : Dev) (core : Nat) : Dev :=
  (m.core core).comets.foldl (fun x r =>
    if (x.core core).readOver r && (match x.block core r.org.blk with | some b => x.live b.asid | none => true) then x.tailEvent core r else x) m

/-- A comet read that the block has issued and that has had no tail event. -/
def Core.readsOf (c : Core) (b : Block) : Bool :=
  c.comets.any (fun r => r.org.blk == b.id) || c.xferQ.any (fun x => x.comet && x.org.blk == b.id) ||
    b.threads.any fun (_, t) => t.held.any fun h => match h with | .xfer o => o.comet | _ => false

/-- The ordinary thread slots of a block. -/
def Block.ordinary (b : Block) : List Nat := List.range b.rec_.nthr

/-- The block exits where every ordinary thread has exited and every comet read has had its tail event (R363): its reserved tile names
are dropped, its waiting requests and remaining prefetches discarded (R405), its slots free. -/
def Core.blockExit (c : Core) (blk : Nat) : Core :=
  match c.block blk with
  | none => c
  | some b =>
    if b.bst != .exited && b.ordinary.all (fun s => (b.thread s).st == .exited) && !c.readsOf b then
      { c.dropPrefs fun p => p.org.blk == blk with
        blocks := c.blocks.map fun x => if x.id == blk then { x with bst := .exited, skid := none, asked := false, imaged := false, passed := false, tiles := x.tiles.filter fun t => t.2 != some .reserved } else x
        accWaits := c.accWaits.filter fun w => w.blk != blk }
    else c

/-- Every block of a core that can exit does. -/
def Dev.blockExits (m : Dev) (core : Nat) : Dev := m.modCore core fun c => c.blocks.foldl (fun x b => x.blockExit b.id) c

/-- A handler of a comet read has exited: with the last one the read's tail event comes (R257). -/
def Dev.handlerEnd (m : Dev) (core slot : Nat) (ci : CometInfo) : Dev :=
  (m.modCore core fun c => { c with comets := c.comets.map fun r =>
    if r.org.id == ci.read then { r with ended := r.ended + 1, ending := (slot, m.nextId) :: r.ending } else r }).tails core

/-- A thread exits (R362): its results are discarded when they arrive, it leaves the mask-form sets (R55), and with the last thread the
block exits. The comet values of a comet thread are gone with it (DESIGN CHOICE, log entry 84). -/
def Dev.exitThread (m : Dev) (core blk slot : Nat) : Dev :=
  let cm := (m.thread core blk slot).bind fun t => t.comet
  let m1 := m.modThread core blk slot fun t =>
    { t with st := .exited, pend := [], inCourse := false, parkMark := false, tmo := none, comet := none }
  let leave (x : Dev) (k : Nat) : Dev :=
    match x.block core blk with
    | some b => if (b.stitch k).mask && (b.stitch k).member slot && b.phaseFull k then x.completePhase core blk k else x
    | none => x
  let m2 := (List.range 16).foldl leave m1
  let m3 := match cm with | some ci => m2.handlerEnd core slot ci | none => m2
  m3.modCore core fun c => c.blockExit blk

end Sys2Proof.Machine
end

