-- ==== Sys2Proof/Machine/Watch.lean ====
section
/-! DEFINITION. WAITM (R430, R431): the wait of a thread for a location to leave a value, its watch, its wakes and polls. -/

namespace Sys2Proof.Machine

open Sys2Proof

/-- The wait's read and the location of its place of writes (R431): the owning stash, or the home slice, for which L1 gives its copy up. -/
def watchRead (ft : Features) (ag : Agent) (core asid va n : Nat) : Act (Nat × Nat) := do
  modify fun m => m.freeRequests core ag.requester
  let m ← get
  awaitStores core ag.requester va n
  match (m.core core).route asid va n with
  | some x =>
    let l ← stashRead ft ag core x n
    let m ← get
    match m.heldAt core x with
    | some (_, _, _, w) =>
      if w.cc == 3 && !isDevLoc w.pa then actFault { transFlt 0x10 va .read with pa := w.pa % 2 ^ 52 }
      return (ofBytes l, w.pa + (x - w.at_))
    | none => return (ofBytes l, 0)
  | none =>
    let pg ← translate ft core asid va .read
    if pg.cc == 3 && !isDevLoc pg.loc then actFault { transFlt 0x10 va .read with pa := pg.loc % 2 ^ 52 }
    recallOwn core asid va n
    asMiss ft ag core pg true false do
      modify fun m => m.dropL1 core fun y _ => y / 128 == pg.loc / 128
      let l ← homeAccess ft ag pg (BitVec.ofNat 64 va) n .load
      return (ofBytes l, pg.loc)

/-- The wait's read as an access of its thread, for the ordering rules (R205). -/
def WatchWait.access (w : WatchWait) (asid blk slot id : Nat) : Access :=
  { id := id, asid := asid, blk := blk, slot := slot, addr := w.addr, word := w.word, pos := w.pos, kind := .load, stash := false, va := w.va,
    n := w.n, v := 0, cmp := 0, ty := 0, order := w.order, scope := w.scope, hint := 0, pend := 0, phase := .new, refusals := 0, wideDone := true,
    leaf := none, early := none, mark := false, wide := none, half := none, asked := 0, desc := none }

/-- A waiting thread whose read is due: not yet made, or made again after a write or at the end of a poll. -/
def WatchWait.due (w : WatchWait) : Bool := w.woken || (w.at_.isNone && w.poll.isNone) || w.poll == some 0

/-- A parked WAITM thread reads its location (R431): it goes on where the value differs from the comparand, else it is watched, or polls
where the watch table is full; a read that takes a non-replayable fault is not made again (R46), and none is made for a block that a halt has stopped (R303).
(DEDUCED, log entry 73.) -/
def Dev.tryWatch (m : Dev) (ft : Features) (core blk slot : Nat) : Dev :=
  match m.block core blk with
  | none => m
  | some b =>
    let t := b.thread slot
    match t.watch with
    | none => m
    | some w =>
      let a := w.access b.asid blk slot m.nextId
      let ch := { a.charge core with op := blk }
      if t.st != .memWatch || b.bst == .stopped || !w.due || m.suspended b.asid (.watch core blk slot) || !(m.core core).gate a (t.acquired m.nextId) then m
      else
        match (watchRead ft (threadAgent b.asid ch) core b.asid w.va.toNat w.n).go m with
        | (.ok (v, loc), m1) =>
          m1.modThread core blk slot fun t =>
            if v != w.cmp then { t with watch := none }.endWait (b.bst == BState.preempted)
            else
              { t with watch := some { w with
                  at_ := if m1.watchFull then none else some loc, woken := false, poll := if m1.watchFull then some 1024 else none } }
        | (.error .wait, m1) => m1
        | (.error (.flt f), m1) =>
          let m2 := m1.charge b.asid ch { f with va := w.va } (.watch core blk slot)
          if f.nr then m2.modThread core blk slot fun t => { t with watch := none } else m2

/-- WAITM: the checks of R339, then the member leaves into STATE 2 and reads (R430, R431). -/
def execWaitm (c : Ctl) (f : MEM) (s : State) : Host.Outcome State Fault Refusal :=
  lastWord c s fun e t m =>
    let va := memVa e f t
    let n := tySize f.ty
    if vaBad va then e.fault m (Flt.at_ 0x10 va.toNat false)
    else if va.toNat % n != 0 then e.fault m (Flt.at_ 0x14 va.toNat false)
    else
      (e.mod m fun x =>
        { x.park (nextClause e.cu.addr e.cu.hdr) .memWatch with
          watch := some
            { va := va, n := n, cmp := t.bytesAt f.data.toNat n, order := f.order, scope := f.scope, at_ := none, woken := false, poll := none,
              addr := e.cu.addr, word := e.cu.word, pos := e.cu.pos } }).tryWatch e.ft e.cu.core e.cu.blk e.cu.slot

/-- WAITM_WAKE: a write has been performed at a watched location, and the thread reads again (R431). -/
def execWaitmWake (core blk slot : Nat) (s : State) : Host.Outcome State Fault Refusal := onM s fun ft m => m.tryWatch ft core blk slot

/-- WAITM_POLL: a thread that found the watch table full reads again after 1,024 fabric cycles (R431). -/
def execWaitmPoll (core blk slot : Nat) (s : State) : Host.Outcome State Fault Refusal :=
  onM s fun ft m =>
    match (m.thread core blk slot).bind fun t => t.watch with
    | some w => if w.poll == some 0 then m.tryWatch ft core blk slot else m
    | none => m

end Sys2Proof.Machine
end

