-- ==== Sys2Proof/Machine/SysWords.lean ====
section
/-! DEFINITION. The system words of class 5: MVS (R41, R115, R392), EVSET, EVCLR, EVWAIT (R360, R361), LAUNCH (R292, R380), KNINIT,
KNARR, KNWAIT (R375 to R379), SKMAP, SKUNMAP, SKFLUSH, SKQUERY (R414 to R417). -/

namespace Sys2Proof.Machine

open Sys2Proof

/-- A special register of 32 bits (R41). -/
def specialReg (e : Env) (t : Thread) (sel : Nat) : Word :=
  let cv (f : CometInfo → Word) : Word := match t.comet with | some c => f c | none => 0
  match sel with
  | 0 => BitVec.ofNat 32 e.cu.slot
  | 1 => e.blk.bidx
  | 2 => e.blk.bidy
  | 3 => e.blk.bidz
  | 4 => BitVec.ofNat 32 e.blk.rec_.nthr
  | 5 => BitVec.ofNat 32 e.cu.core
  | 6 => BitVec.ofNat 32 (e.ft.dieOf e.cu.core)
  | 8 => t.step
  | 9 => e.blk.restarts
  | 10 => cv (·.cid)
  | 11 => cv (·.cbi)
  | 12 => cv (·.cx)
  | 13 => cv (·.cy)
  | 14 => cv (·.cz)
  | 15 => cv (·.cst)
  | _ => e.blk.mkp

/-- MVS (R392): a pair for sr.cyc. -/
def execMvs (c : Ctl) (f : SY) (s : State) : Host.Outcome State Fault Refusal :=
  regWord c s fun e t => if f.sel == 7 then t.setPair f.d.toNat e.cyc else t.setReg f.d.toNat (specialReg e t f.sel.toNat)

/-- An access of a system word, not yet numbered. -/
def Env.sysAccess (e : Env) (kind : AccKind) (stash : Bool) (va : DWord) (n v : Nat) (scope : BitVec 2) : Access :=
  { id := 0, asid := e.blk.asid, blk := e.cu.blk, slot := e.cu.slot, addr := e.cu.addr, word := e.cu.word, pos := e.cu.pos, kind := kind,
    stash := stash, va := va, n := n, v := v, cmp := 0, ty := 3, order := 0, scope := scope, hint := 0, pend := 0, phase := .new, refusals := 0,
    wideDone := false, leaf := none, early := none, mark := false, wide := none, half := none, asked := 0, desc := none }

/-- EVSET: a release at system scope that sets the event (R360). -/
def execEvset (c : Ctl) (f : SY) (s : State) : Host.Outcome State Fault Refusal :=
  word c s fun e _ m => m.issueAcc e.ft e.cu (e.sysAccess .evSet false 0 0 (f.sel.toNat % 256) 3) []

/-- EVCLR (R360). -/
def execEvclr (c : Ctl) (f : SY) (s : State) : Host.Outcome State Fault Refusal :=
  word c s fun e _ m => m.issueAcc e.ft e.cu (e.sysAccess .evClr false 0 0 (f.sel.toNat % 256) 0) []

/-- EVWAIT: the read and the park are one step (R361). (DEDUCED, log entry 33.) -/
def execEvwait (c : Ctl) (f : SY) (s : State) : Host.Outcome State Fault Refusal :=
  lastWord c s fun e _ m =>
    let n := f.sel.toNat % 256
    let isSet := match m.ctx e.blk.asid with | some x => x.events.getLsbD n | none => false
    e.mod m fun x =>
      if isSet && !(m.core e.cu.core).eventAhead e.cu.blk e.cu.slot n then x.leave (nextClause e.cu.addr e.cu.hdr)
      else { x.park (nextClause e.cu.addr e.cu.hdr) .event with evW := some n }

/-- LAUNCH (R292, R380): appends a node to the context's device chain, or answers 1 where 256 wait. (DEDUCED, log entry 35.) -/
def execLaunch (c : Ctl) (f : SY) (s : State) : Host.Outcome State Fault Refusal :=
  word c s fun e t m =>
    let va := t.pair f.a.toNat
    if vaBad va then e.fault m (Flt.at_ 0x10 va.toNat false)
    else if va.toNat % 128 != 0 then e.fault m (Flt.at_ 0x14 va.toNat false)
    else
      let full : Bool := match m.ctx e.blk.asid with
        | some x => decide (256 ≤ x.devQ.length + (if x.dev.cur.isSome && !x.dev.started then 1 else 0))
        | none => true
      if full then e.mod m fun x => x.setReg f.d.toNat 1
      else
        e.mod (m.fresh.modCtx e.blk.asid fun x =>
          { x with devQ := x.devQ ++ [{ addr := va, core := e.cu.core, blk := e.cu.blk, slot := e.cu.slot, id := m.nextId, acq := t.acquired m.nextId }] }) fun x =>
          x.setReg f.d.toNat 0

/-- A knot word's operand: the fault of R375, or the knot's stash byte. -/
def Env.knot (e : Env) (m : Dev) (v : Word) : Except Nat Nat := (m.core e.cu.core).knotOperand e.blk v

/-- KNINIT (R377). (DEDUCED, log entry 32.) -/
def execKninit (c : Ctl) (f : SY) (s : State) : Host.Outcome State Fault Refusal :=
  word c s fun e t m =>
    let v := t.reg f.a.toNat
    match e.knot m v with
    | .error x => e.fault m (Flt.plain x)
    | .ok _ => m.issueAcc e.ft e.cu (e.sysAccess .knInit true (BitVec.ofNat 64 (knotOff v)) 16 (t.reg f.b.toNat).toNat 0) []

/-- What identifies an operation that a word issues (R215): it follows the thread's earlier accesses and those its wakes acquired. -/
def Env.origin (e : Env) (t : Thread) (id : Nat) : Origin :=
  { id := id, blk := e.cu.blk, slot := e.cu.slot, addr := e.cu.addr, word := e.cu.word, pos := e.cu.pos, after := (e.cu.slot, id) :: t.acquired id, bound := none }

/-- KNARR: one arrival of imm16, or a post to a stitch register (R378). -/
def execKnarr (c : Ctl) (f : SY) (s : State) : Host.Outcome State Fault Refusal :=
  word c s fun e t m =>
    let v := t.reg f.a.toNat
    match e.knot m v with
    | .error x => e.fault m (Flt.plain x)
    | .ok at_ =>
      if f.md.getLsbD 4 then e.post (f.md.toNat % 16) (.knarr (e.origin t m.nextId) at_ f.imm.toNat) m.fresh
      else m.issueAcc e.ft e.cu (e.sysAccess .knArr true (BitVec.ofNat 64 (knotOff v)) 16 f.imm.toNat 0) []

/-- KNWAIT: the read of the generation and the park are one step of the controller (R379). -/
def execKnwait (c : Ctl) (f : SY) (s : State) : Host.Outcome State Fault Refusal :=
  lastWord c s fun e t m =>
    let v := t.reg f.a.toNat
    match e.knot m v with
    | .error x => e.fault m (Flt.plain x)
    | .ok at_ =>
      e.mod m fun x =>
        if ((m.core e.cu.core).knot at_).gen != knotGen v then x.leave (nextClause e.cu.addr e.cu.hdr)
        else { x.park (nextClause e.cu.addr e.cu.hdr) .knot with knotW := some (at_, knotGen v) }

/-- SKMAP: the address checks of R415, then the entry is loaded in the thread's program order. -/
def execSkmap (c : Ctl) (f : SY) (s : State) : Host.Outcome State Fault Refusal :=
  word c s fun e t m =>
    let va := t.pair f.a.toNat
    if vaBad va then e.fault m (Flt.at_ 0x10 va.toNat false)
    else if va.toNat % 32 != 0 then e.fault m (Flt.at_ 0x14 va.toNat false)
    else m.issueAcc e.ft e.cu (e.sysAccess .skMap false va 32 (f.sel.toNat % 64) 0) []

/-- SKUNMAP (R416). -/
def execSkunmap (c : Ctl) (f : SY) (s : State) : Host.Outcome State Fault Refusal :=
  word c s fun e _ m => m.issueAcc e.ft e.cu (e.sysAccess .skUnmap false 0 0 (f.sel.toNat % 64) 0) []

/-- SKFLUSH (R416). -/
def execSkflush (c : Ctl) (f : SY) (s : State) : Host.Outcome State Fault Refusal :=
  word c s fun e _ m => m.issueAcc e.ft e.cu (e.sysAccess .skFlush false 0 0 (f.sel.toNat % 64) 0) []

/-- SKFLUSH .all (R416). -/
def execSkflushAll (c : Ctl) (_ : SY) (s : State) : Host.Outcome State Fault Refusal :=
  word c s fun e _ m => m.issueAcc e.ft e.cu (e.sysAccess .skFlushAll false 0 0 0 0) []

/-- SKQUERY (R417). -/
def execSkquery (c : Ctl) (f : SY) (s : State) : Host.Outcome State Fault Refusal :=
  word c s fun e _ m => m.issueAcc e.ft e.cu (e.sysAccess .skQuery false 0 8 (f.sel.toNat % 64) 0) [f.d.toNat, f.d.toNat + 1]

end Sys2Proof.Machine
end

