-- ==== Sys2Proof/Machine/Matrix.lean ====
section
/-! DEFINITION. The matrix unit: MMA, MMAS and the tile words enter its queue (R227 to R229, R233, R387), the checks as an operation starts
(R226), one k-block (R121, R124 to R127, R225, R228 to R231), ACCRD (R236), RSTL (R237), the words held for a full queue (R227). -/

namespace Sys2Proof.Machine

open Sys2Proof

/-! ### Issue -/

/-- A matrix word enters the queue, or is held for its member where the queue is full or operations issued earlier wait for it (R227). -/
def Env.enqMat (e : Env) (o : MatOp) (m : Dev) : Dev :=
  let c := m.core e.cu.core
  if c.matQ.length < 128 && (c.heldFor .mat).isEmpty then m.fresh.setCore e.cu.core { c with matQ := c.matQ ++ [o] }
  else e.mod m.fresh fun x => { x with held := x.held ++ [.mat o] }

/-- A matrix operation without operands. -/
def bareMat (org : Origin) (kind : MatKind) (tile : Nat) : MatOp :=
  { org := org, kind := kind, tile := tile, aBase := 0, aStride := 0, aScale := 0, bBase := 0, bStride := 0, bScale := 0, k := 0, aslot := 0,
    bslot := 0, zf := false, meta' := 0, off := 0 }

/-- The operation of an MMA or MMAS word, its registers read as it issues or posts (R229). -/
def mxOp (e : Env) (t : Thread) (f : MX) (kind : MatKind) (id : Nat) : MatOp :=
  let a := 4 * f.aq.toNat
  let b := 4 * f.bq.toNat
  { bareMat (e.origin t id) kind f.acc.toNat with
    aBase := t.pair a, aStride := t.reg (a + 2), aScale := t.reg (a + 3), bBase := t.pair b, bStride := t.reg (b + 2), bScale := t.reg (b + 3)
    k := t.reg f.k.toNat, aslot := f.aslot.toNat, bslot := f.bslot.toNat, zf := f.zf == 1
    meta' := if kind == .mmas then t.pair f.meta'.toNat else 0 }

/-- A matrix word issues one operation, or posts it (R53, R227). -/
def mxWord (e : Env) (t : Thread) (f : MX) (kind : MatKind) (m : Dev) : Dev :=
  let o := mxOp e t f kind m.nextId
  if f.sb == 1 then e.post f.stitch.toNat (.mat o) m.fresh else e.enqMat o m

/-- MMA (R387). -/
def execMma (c : Ctl) (f : MX) (s : State) : Host.Outcome State Fault Refusal := word c s fun e t m => mxWord e t f .mma m

/-- MMAS (R387). -/
def execMmas (c : Ctl) (f : MX) (s : State) : Host.Outcome State Fault Refusal := word c s fun e t m => mxWord e t f .mmas m

/-- ACCFREE (R233, R342). -/
def execAccfree (c : Ctl) (f : RRR) (s : State) : Host.Outcome State Fault Refusal :=
  word c s fun e t m => e.enqMat (bareMat (e.origin t m.nextId) .free (f.md.toNat % 128)) m

/-- ACCZERO (R233, R342). -/
def execAcczero (c : Ctl) (f : RRR) (s : State) : Host.Outcome State Fault Refusal :=
  word c s fun e t m => e.enqMat (bareMat (e.origin t m.nextId) .zero (f.md.toNat % 128)) m

/-- ACCRD (R236, R342). -/
def execAccrd (c : Ctl) (slot : BitVec 3) (f : RRR) (s : State) : Host.Outcome State Fault Refusal :=
  word c s fun e t m =>
    e.enqMat { bareMat (e.origin t m.nextId) .rd (f.md.toNat % 128) with aslot := slot.toNat, off := t.reg f.a.toNat } m

/-- A name that is neither allocated nor reserved (R232). -/
def Block.nameFree (b : Block) (h : Nat) : Bool := (mget none b.tiles h).isNone

/-- ACCALLOC: chooses the lowest run of names that fits, or takes the protection fault; the request waits for physical tiles (R234, R342). -/
def execAccalloc (c : Ctl) (f : RRR) (s : State) : Host.Outcome State Fault Refusal :=
  word c s fun e _ m =>
    let n := f.md.toNat % 128
    let amax := e.blk.rec_.amax
    let held := e.blk.tiles.length
    match (List.range 97).find? fun h => h + n ≤ amax && (List.range n).all fun i => e.blk.nameFree (h + i) with
    | some h =>
      if amax < held + n then e.fault m (Flt.plain 0x10)
      else
        let m1 := (m.fresh.modBlock e.cu.core e.cu.blk fun b =>
          { b with tiles := (List.range n).foldl (fun x i => mput none x (h + i) (some .reserved)) b.tiles }).modCore e.cu.core fun c =>
          { c with accWaits := c.accWaits ++ [{ id := m.nextId, blk := e.cu.blk, slot := e.cu.slot, first := h, n := n, pend := m.nextId }] }
        e.mod m1 fun x => x.addPend m.nextId [f.d.toNat]
    | none => e.fault m (Flt.plain 0x10)

/-- A label that RSTL refuses (R237). -/
def labelBad (l : DWord) : Bool := l.extractLsb' 0 3 != 0 || vaBad l

/-- A thread checkpoints the registers of a mask into its restart area (R237). -/
def Thread.checkpoint (t : Thread) (mask : DWord) : Thread :=
  { t with area := (List.range 64).foldl (fun a j => if mask.getLsbD j then mput 0 a j (t.reg j) else a) t.area }

/-- RSTL (R237, R407). -/
def execRstl (c : Ctl) (f : RRR) (s : State) : Host.Outcome State Fault Refusal :=
  word c s fun e t m =>
    let label := t.pair f.a.toNat
    let mask := t.pair f.b.toNat
    if labelBad label then e.fault m (Flt.at_ 0x14 label.toNat false)
    else (e.mod m fun x => x.checkpoint mask).modBlock e.cu.core e.cu.blk fun b => { b with rstLabel := label, rstMask := mask }

/-! ### Tiles -/

/-- Element `i` (64·row + column) of a physical tile; of an undefined tile, a value that nothing constrains (R230, R232). -/
def Core.tileElem (c : Core) (p i : Nat) : Word :=
  match mget none c.tileUndef p with
  | some base => Config.freeWord (base + i)
  | none => mget 0 (mget [] c.tiles p) i

/-- Replaces a tile's elements; it is defined from now on. -/
def Core.setTile (c : Core) (p : Nat) (els : List Word) : Core :=
  { c with tiles := mput [] c.tiles p (els.zipIdx.foldl (fun t (w, i) => mput 0 t i w) []), tileUndef := mput none c.tileUndef p none }

/-- The physical tile that a block's name is bound to (R232). -/
def Block.tile (b : Block) (name : Nat) : Option Nat := match mget none b.tiles name with | some (.bound p) => some p | _ => none

/-! ### One k-block -/

/-- Bytes [va, va + n) of an operand, one access for each aligned 4-byte word (R225). -/
def engSpan (ft : Features) (ag : Agent) (core asid va n : Nat) : Act (List Byte) := do
  let lo := va / 4 * 4
  let mut out : List Byte := []
  for i in List.range ((va + n + 3) / 4 - va / 4) do
    out := out ++ (← engRead ft ag core asid (lo + 4 * i) 4)
  return (out.drop (va % 4)).take n

/-- An operand of a matrix operation: base, stride, scale offset, slot. -/
structure MatSide where
  base : Nat
  stride : Nat
  scale : Nat
  slot : Slot
  deriving DecidableEq, Repr

/-- The A and B operands of an operation. -/
def MatOp.sideA (o : MatOp) (b : Block) : MatSide :=
  { base := o.aBase.toNat, stride := o.aStride.toNat, scale := o.aScale.toNat, slot := b.slot o.aslot }
def MatOp.sideB (o : MatOp) (b : Block) : MatSide :=
  { base := o.bBase.toNat, stride := o.bStride.toNat, scale := o.bScale.toNat, slot := b.slot o.bslot }

/-- The scale pair of row `r` in k-block `j`: its address, E and Z; E = 127 and Z = 0 where there is none (R124). (DEDUCED, log entry 26.) -/
def readPair (ft : Features) (ag : Agent) (core asid k j : Nat) (s : MatSide) (r : Nat) : Act (Nat × Nat × Nat) := do
  if !s.slot.scale || s.scale = 0 then return (0, 127, 0)
  let va := s.base + s.scale + 2 * (r * (k / 32) + j)
  let v := ofBytes (← engSpan ft ag core asid va 2)
  return (va, v % 256, v / 256)

/-- The decoded elements and the scale pair of each of the 64 rows of an operand for k-block `j`, `n` stored elements a row (R116, R223).
(DEDUCED, log entry 26.) -/
def readSide (ft : Features) (ag : Agent) (core asid k j n : Nat) (s : MatSide) : Act (List (List FVal × Nat × Nat × Nat)) := do
  let w := s.slot.fmt.bits
  let len := n * w / 8
  let mut out : List (List FVal × Nat × Nat × Nat) := []
  for r in List.range 64 do
    let l ← engSpan ft ag core asid (s.base + r * s.stride + j * len) len
    let p ← readPair ft ag core asid k j s r
    out := out ++ [((unpackWords w n (ofBytes l)).map (decodeFormat s.slot), p)]
  return out

/-- The check of an operand's pairs: a zero point out of range takes "scale"; a poisoned pair is not checked (R125). -/
def checkPairs (s : MatSide) (rows : List (List FVal × Nat × Nat × Nat)) : Act Unit := do
  for (_, va, e, z) in rows do
    if s.slot.scale && e != 0xFF && !zeroPointOk s.slot.fmt z then actFault (Flt.at_ 0x17 va false)

/-- A row's values with the scale applied; NaN throughout where the pair is poisoned (R124 to R126). -/
def scaleRow (s : MatSide) (row : List FVal × Nat × Nat × Nat) : List FVal :=
  let (l, _, e, z) := row
  if !s.slot.scale then l else if e = 0xFF then l.map fun _ => .nan else l.map fun q => scaledVal q e z

/-- The four indices of a metadata group (R231). -/
def groupIdx (g : Nat) : List Nat := [g % 8, g / 8 % 8, g / 64 % 8, g / 512 % 8]

/-- A group is valid where its indices rise (R231). -/
def groupOk (g : Nat) : Bool :=
  match groupIdx g with
  | [a, b, c, d] => a < b && b < c && c < d
  | _ => false

/-- The metadata of k-block `j`, all of it read before any of it is checked (R229): for each row the dense positions of its 16 stored elements; the first
invalid group faults (R231). -/
def readMeta (ft : Features) (ag : Agent) (core asid base k j : Nat) : Act (List (List Nat)) := do
  let mut rows : List (Nat × Nat) := []
  for r in List.range 64 do
    let va := base + r * (3 * k / 16) + 6 * j
    rows := rows ++ [(va, ofBytes (← engSpan ft ag core asid va 6))]
  for (va, v) in rows do
    for g in List.range 4 do
      if !groupOk (v / 2 ^ (12 * g) % 4096) then actFault (Flt.at_ 0x16 (va + 12 * g / 8) false)
  return rows.map fun (_, v) => (List.range 4).flatMap fun g => (groupIdx (v / 2 ^ (12 * g))).map fun i => 8 * g + i

/-- The block sum S of R126 over the 32 pairs of values: exact, NaN where a value is NaN and by the IEEE rules for infinities; an S of 0 counts as +0.
(DEDUCED, log entry 26.) -/
def blockSum (xs : List (FVal × FVal)) : FVal :=
  match xs.foldl (fun (s : FVal) p => s.add .rne (p.1.mul p.2)) (FVal.fin false 0 0) with
  | .fin _ 0 _ => FVal.fin false 0 0
  | x => x

/-- The 32 operand values of a row in one k-block: stored value `i` stands at position `ps i`, and a pruned position is +0 (R103, R224; DEDUCED, log entry 26). -/
def denseRow (xs : List FVal) (ps : List Nat) : List FVal := (List.range 32).map fun t => (((ps.zip xs).find? fun p => p.1 == t).map fun p => p.2).getD (.fin false 0 0)

/-- One element after a k-block (R126, R127). -/
def addBlock (c : Word) (s : FVal) : Word := if f32IsNan c || s == .nan then f32Nan else f32Round false ((f32 c).add .rne s)

/-- The slot of a matrix operation's charge: k-progress and tile name (R299). -/
def MatRun.charge (r : MatRun) (core : Nat) : Charge := r.op.org.charge .matrix core (BitVec.ofNat 32 r.j) (BitVec.ofNat 32 r.op.tile)

/-- One k-block: every read and check, then the sums of all 4,096 elements (R225, R229). -/
def kBlock (ft : Features) (core : Nat) (b : Block) (r : MatRun) : Act Unit := do
  let o := r.op
  let ag := engineAgent b.asid (r.charge core)
  let k := o.k.toNat
  let sparse := o.kind == .mmas
  let pos ← if sparse then readMeta ft ag core b.asid o.meta'.toNat k r.j else pure ((List.range 64).map fun _ => List.range 32)
  let sa := o.sideA b
  let sb := o.sideB b
  let ra ← readSide ft ag core b.asid k r.j (if sparse then 16 else 32) sa
  let rb ← readSide ft ag core b.asid k r.j 32 sb
  checkPairs sa ra
  checkPairs sb rb
  match b.tile o.tile with
  | none => pure ()
  | some p =>
    modify fun m =>
      let c := m.core core
      let cols := rb.map (scaleRow sb)
      let rows := ((ra.map (scaleRow sa)).zip pos).map fun (xs, ps) => denseRow xs ps
      let els := rows.zipIdx.flatMap fun (xs, i) => cols.zipIdx.map fun (ys, j) => addBlock (c.tileElem p (64 * i + j)) (blockSum (xs.zip ys))
      m.setCore core (c.setTile p els)

/-- A row of an ACCRD's output is written to the stash in words of four bytes, from word `first` of the output on; `k` is the number of the row's first word. What has
been written stays so, and is not written again, while a later word waits or is suspended, or lies in a read-only segment (R221, R236). The low bits of an element
that straddles the boundary of such a segment are written (DESIGN CHOICE, log entry 113). -/
def writeRow (ft : Features) (ag : Agent) (core a k first : Nat) (l : List Byte) : Act Unit := do
  for i in (List.range (l.length / 4)).drop (first - k) do
    stashWrite ft ag core (a + 4 * i) ((l.drop (4 * i)).take 4)
    modify fun m => m.modCore core fun c => { c with matRun := c.matRun.map fun x => { x with written := k + i + 1 } }

/-- ACCRD: the tile's elements encoded into the stash, row after row (R236). (DESIGN CHOICE, log entry 113.) -/
def readOut (ft : Features) (core : Nat) (b : Block) (r : MatRun) : Act Unit := do
  let m ← get
  let s := b.slot r.op.aslot
  let len := 64 * s.fmt.bits / 8
  let off := r.op.off.toNat
  if off % 64 != 0 || b.winSize < off + 64 * len then actFault { Flt.plain 0x14 with wr := true }
  match b.tile r.op.tile with
  | none => pure ()
  | some p =>
    for i in (List.range 64).drop (r.written / (len / 4)) do
      let ws := (List.range 64).map fun j => encodeFormat s (f32 ((m.core core).tileElem p (64 * i + j)))
      writeRow ft (engineAgent b.asid (r.charge core)) core (b.winBase + off + i * len) (i * (len / 4)) r.written (packBytes s.fmt.bits ws)

/-! ### The unit -/

/-- The core cycles of one k-block (R228). -/
def MatOp.cycles (o : MatOp) (b : Block) : Nat :=
  let n := max (b.slot o.aslot).fmt.kCycles (b.slot o.bslot).fmt.kCycles
  match o.kind with | .mma => n | .mmas => n / 2 | _ => 0

/-- A base or stride that breaks R223. -/
def sideBad (s : MatSide) : Bool := s.base % 8 != 0 || 2 ^ 57 ≤ s.base || s.stride % 8 != 0

/-- The first check of R226, or R233, that an operation fails as it starts; of an ACCRD the tile is checked before its window (DESIGN CHOICE, log entry 88). -/
def MatOp.check (o : MatOp) (b : Block) : Option Flt :=
  let k := o.k.toNat
  let usedOdd (s : MatSide) : Bool := s.slot.scale && s.scale % 2 != 0
  let noTile := if (b.tile o.tile).isNone then some (Flt.plain 0x10) else none
  match o.kind with
  | .free => none
  | .zero => noTile
  | .rd => noTile
  | _ =>
    if k % 32 != 0 || k < 32 || 65504 < k then some (Flt.shape 0x50)
    else if sideBad (o.sideA b) then some (Flt.shape 0x51)
    else if sideBad (o.sideB b) then some (Flt.shape 0x52)
    else if usedOdd (o.sideA b) || usedOdd (o.sideB b) then some (Flt.shape 0x53)
    else if o.kind == .mmas && (b.slot o.aslot).fmt == .fp32 then some (Flt.shape 0x54)
    else if o.kind == .mmas && o.meta'.toNat % 2 != 0 then some (Flt.shape 0x55)
    else noTile

/-- A physical tile returns to the free pool (R233). -/
def Dev.freeTile (m : Dev) (core blk name : Nat) : Dev :=
  match (m.block core blk).bind fun b => b.tile name with
  | none => m
  | some p =>
    (m.modBlock core blk fun b => { b with tiles := mput none b.tiles name none }).modCore core fun c =>
      { c with tileUse := mput none c.tileUse p none, tiles := mput [] c.tiles p [], tileUndef := mput none c.tileUndef p none }

/-- Every element of a block's tile is +0 (R233). -/
def Dev.zeroTile (m : Dev) (core blk name : Nat) : Dev :=
  match (m.block core blk).bind fun b => b.tile name with
  | none => m
  | some p => m.modCore core fun c => { c with tiles := mput [] c.tiles p [], tileUndef := mput none c.tileUndef p none }

/-- MATRIX_OP_START: the oldest entry leaves the queue and starts executing, once the accesses before it are performed (R215, R226, R227);
ACCFREE and ACCZERO act at once. -/
def execMatrixOpStart (core : Nat) (s : State) : Host.Outcome State Fault Refusal :=
  onM s fun _ m =>
    let c := m.core core
    match c.matQ, c.matRun with
    | o :: q, none =>
      match m.block core o.org.blk with
      | none => m.setCore core { c with matQ := q }
      | some b =>
        if !m.live b.asid || !c.accsDone o.org.blk o.org.after then m
        else
          let r : MatRun := { op := o, j := 0, left := o.cycles b, written := 0 }
          match o.check b with
          | some f => (m.setCore core { c with matQ := q, matRun := some r }).charge b.asid (r.charge core) f (.matrix core o.org.id)
          | none =>
            let m1 := m.setCore core { c with matQ := q }
            match o.kind with
            | .free => m1.freeTile core o.org.blk o.tile
            | .zero => m1.zeroTile core o.org.blk o.tile
            | .rd => m1.modCore core fun c => { c with matRun := some r }
            | _ => (if o.zf then m1.zeroTile core o.org.blk o.tile else m1).modCore core fun c => { c with matRun := some r }
    | _, _ => m

/-- What the executing operation does next: its k-block, or ACCRD's writes. -/
def matStep (ft : Features) (core : Nat) (b : Block) (r : MatRun) : Act Unit :=
  if r.op.kind == .rd then readOut ft core b r else kBlock ft core b r

/-- The executing operation after a k-block that has been added. -/
def MatRun.next (r : MatRun) (b : Block) : Option MatRun :=
  if r.op.kind == .rd || r.op.k.toNat / 32 ≤ r.j + 1 then none else some { r with j := r.j + 1, left := r.op.cycles b }

/-- MATRIX_KBLOCK_COMPLETE: one k-block of the executing operation is added whole, or faults and adds nothing (R229, R239).
(DESIGN CHOICE, log entry 27.) -/
def execMatrixKblockComplete (core : Nat) (s : State) : Host.Outcome State Fault Refusal :=
  onM s fun ft m =>
    match (m.core core).matRun with
    | none => m
    | some r =>
      match m.block core r.op.org.blk with
      | none => m.modCore core fun c => { c with matRun := none }
      | some b =>
        if r.left != 0 || !m.live b.asid || m.suspended b.asid (.matrix core r.op.org.id) then m
        else
          match (matStep ft core b r).go m with
          | (.ok _, m1) => m1.modCore core fun c => { c with matRun := r.next b }
          | (.error .wait, m1) => m1
          | (.error (.flt f), m1) => m1.charge b.asid (r.charge core) f (.matrix core r.op.org.id)

end Sys2Proof.Machine
end

