-- ==== Sys2Proof/Machine/Restart.lean ====
section
/-! DEFINITION. Restart at a restart label (R56, R79, R237 to R239, R250, R258), the matrix skid (R239), faults that belong to a block
(R456), and the grant and revocation of accumulator tiles (R234, R235). -/

namespace Sys2Proof.Machine

open Sys2Proof

/-- The charge of a fault that belongs to a block (R456). (DEDUCED, log entry 37.) -/
def Block.faultCharge (b : Block) (core : Nat) (engine : Engine) : Charge :=
  { engine := engine, core := core, slot := 0, addr := b.rec_.entry, word := 0, info0 := 0, info1 := 0, op := b.id }

/-- A fault that belongs to a block: slot 0, the launch's entry address (R456). -/
def Dev.blockFault (m : Dev) (core : Nat) (b : Block) (engine : Engine) (f : Flt) (susp : Susp) : Dev :=
  m.charge b.asid (b.faultCharge core engine) f susp

/-- The block has a course that has entered a clause. -/
def Core.inClause (c : Core) (blk : Nat) : Bool := c.courses.any fun x => x.blk == blk && x.entered

/-- A block's courses that have not entered a clause dissolve. -/
def Core.dropCourses (c : Core) (blk : Nat) : Core := { c with courses := c.courses.filter fun x => x.blk != blk || x.entered }

/-- The tags of operations that have been discarded are freed; an entry still to be written for one suspends nothing and takes no tag (R302).
(DEDUCED, log entry 47.) -/
def Context.untag (c : Context) (f : Susp → Bool) : Context :=
  let gone (x : FaultInfo) : Bool := match x.susp with | some y => f y | none => false
  { c with
    tagged := c.tagged.filter (fun t => !gone t.info)
    waiting := c.waiting.map fun x => if gone x then { x with susp := none } else x }

/-- The matrix skid of a block that is pre-empted or revoked: the k-block in progress completes where its reads and checks succeed, and the
block's operations are discarded (R239). The progress of the operation that was executing or suspended; none while the k-block in progress still waits for a
read, or has taken a non-replayable fault: the context halts then, and the operation stays for its stop record (R239). A replayable fault of that k-block is
dropped, and the progress stays (DESIGN CHOICE, log entry 89).
(DEDUCED, log entry 25.) -/
def Dev.stopMatrix (m : Dev) (ft : Features) (core : Nat) (b : Block) : Option Nat × Dev :=
  let drop (m : Dev) : Dev := m.modCore core fun c =>
    { c with matQ := c.matQ.filter (fun o => o.org.blk != b.id), matRun := c.matRun.filter fun r => r.op.org.blk != b.id }
  match (m.core core).matRun with
  | none => (some 0, drop m)
  | some r =>
    if r.op.org.blk != b.id then (some 0, drop m)
    else
      let m0 := m.modCtx b.asid fun c => c.untag fun x => x == .matrix core r.op.org.id
      if m.suspended b.asid (.matrix core r.op.org.id) || r.op.kind == .rd then (some r.j, drop m0)
      else
        match (kBlock ft core b r).go m with
        | (.ok _, m1) => (some (r.j + 1), drop m1)
        | (.error .wait, m1) => (none, m1)
        | (.error (.flt f), _) => if f.nr then (none, m0.charge b.asid (r.charge core) f (.matrix core r.op.org.id)) else (some r.j, drop m0)

/-- Every tile and name of a block returns to the pool, its requests discarded (R235, R238). -/
def Core.freeTiles (c : Core) (blk : Nat) : Core :=
  let mine := c.tileUse.filter fun (_, u) => match u with | some (b, _) => b == blk | none => false
  let c1 : Core := { c with
    tileUse := mine.foldl (fun x e => mput none x e.1 none) c.tileUse, tiles := mine.foldl (fun x e => mput [] x e.1 []) c.tiles
    tileUndef := mine.foldl (fun x e => mput none x e.1 none) c.tileUndef, accWaits := c.accWaits.filter fun w => w.blk != blk }
  c1.modBlock blk fun b => { b with tiles := [] }

/-- A stitch register in its launch state: what a .stitch item declares stays declared (R56). -/
def Stitch.relaunch (s : Stitch) : Stitch :=
  if s.decl then { Fresh.stitch with decl := true, mask := s.mask, cnt := s.cnt, base := s.base, memb := s.memb, open_ := true } else Fresh.stitch

/-- A thread at its restart label (R238): the registers of the mask from its restart area, the others undefined; what its wakes have acquired it keeps (R208,
R216). (DEDUCED, log entry 24.) -/
def Thread.restart (t : Thread) (label mask : DWord) (ctr : Nat) : Thread :=
  let reg (j : Nat) : Word := if mask.getLsbD j then mget 0 t.area j else Config.freeWord (ctr + j)
  { Fresh.thread with
    narrowRel := t.narrowRel, acq := t.acq
    regs := (List.range 64).foldl (fun r j => mput 0 r j (reg j)) [], area := t.area, pc := label, st := .ready }

/-- The operations that a restart of a block discards: sweep, ply and comet operations, fetches and WAITM reads (R163, R258, R279). -/
def Core.restartDrops (c : Core) (core blk : Nat) (x : Susp) : Bool :=
  let mine (o : Origin) : Bool := o.blk == blk
  match x with
  | .sweep k id => k == core && (c.sweepRun.toList ++ c.sweepAside).any fun o => o.org.id == id && mine o.org
  | .ply k id => k == core && (c.plyRun.toList ++ c.plyQ ++ (c.block blk).toList.flatMap fun b => b.abandoned.toList).any fun o => o.org.id == id && mine o.org
  | .xfer k id => k == core && c.xferQ.any fun o => o.comet && o.org.id == id && mine o.org
  | .burst k id _ => k == core && c.comets.any fun r => r.org.id == id && mine r.org
  | .fetch k b _ _ => k == core && b == blk
  | .watch k b _ => k == core && b == blk
  | _ => false

/-- The numbers of a block's operations in the core's units: with `all` those of its copies and comet reads too. -/
def Core.unitOps (c : Core) (blk : Nat) (all : Bool) : List Nat :=
  let l := c.matQ.map (·.org) ++ (c.matRun.toList.map fun r => r.op.org) ++ (c.sweepQ ++ c.sweepRun.toList ++ c.sweepAside).map (·.org) ++
    (c.plyQ ++ c.plyRun.toList ++ (c.block blk).toList.flatMap fun b => b.abandoned.toList).map (·.org) ++
    if all then c.xferQ.map (·.org) ++ c.copies.map (·.org) ++ c.comets.map (·.org) else []
  (l.filter fun o => o.blk == blk).map fun o => o.id

/-- A request of a block's clause fetches. -/
def Requester.fetches (r : Requester) (blk : Nat) : Bool := r.unit == 8 + Engine.fetch.code && r.op == blk

/-- A block restarts at its restart label (R238); its comet reads are cancelled (R258), its sweep and ply operations discarded (R163, R279).
(DEDUCED, log entry 24; DEDUCED, log entry 25.) -/
def Dev.restartBlock (m : Dev) (core : Nat) (b : Block) (progress : Nat) : Dev :=
  let ctr := m.freeCtr
  let threads := b.ordinary.foldl (fun (x : SMap Thread) s =>
    mput Fresh.thread x s ((b.thread s).restart b.rstLabel b.rstMask (ctr + 64 * s))) []
  let b1 : Block := { b with
    threads := threads, restarts := b.restarts + 1, mkp := BitVec.ofNat 32 progress, tiles := [], abandoned := none
    stitches := b.stitches.filterMap (fun (k, s) => if s.relaunch = Fresh.stitch then none else some (k, s.relaunch))
    plys := b.plys.filter fun p => p.2 != .lost }
  let m0 := { m with freeCtr := ctr + 64 * b.rec_.nthr }.modCtx b.asid fun x => x.untag ((m.core core).restartDrops core b.id)
  let comets := ((m.core core).comets.map (·.org)).filter fun o => o.blk == b.id
  let gone (r : Requester) : Bool := r.op == b.id || ((m.core core).unitOps b.id false ++ comets.map (·.id)).contains r.op
  (m0.forget core b.asid gone).modCore core fun c =>
    let c1 := (c.freeTiles b.id).dropCourses b.id
    let mine (o : Origin) : Bool := o.blk != b.id
    let c2 := { c1 with
      sweepQ := c1.sweepQ.filter (fun o => mine o.org), sweepRun := c1.sweepRun.filter (fun o => mine o.org)
      sweepAside := c1.sweepAside.filter (fun o => mine o.org), plyQ := c1.plyQ.filter (fun o => mine o.org)
      plyRun := c1.plyRun.filter (fun o => mine o.org), xferQ := c1.xferQ.filter (fun o => !o.comet || mine o.org)
      comets := c1.comets.filter (fun r => mine r.org), prefs := c1.prefs.filter fun p => mine p.org }
    c2.modBlock b.id fun _ => b1

/-- A restart, or the fault of a block that has no label (R238, R278), charged as the caller says. (DEDUCED, log entry 37.) -/
def Dev.restartOr (m : Dev) (core : Nat) (b : Block) (progress : Nat) (c : Charge) (cause : Nat) : Dev :=
  if b.rstLabel == 0 then m.charge b.asid c (Flt.plain cause) (.access 0 0) else m.restartBlock core b progress

/-- A block whose ordinary threads have all exited is never restarted (R235, R238, R278). -/
def Block.over (b : Block) : Bool := b.bst == .exited || b.ordinary.all fun s => (b.thread s).st == .exited

/-! ### Grants and revocation (R235) -/

/-- The first block is older than the second: earlier launch, or lower index (R235). -/
def Block.older (a b : Block) : Bool := a.launch < b.launch || (a.launch == b.launch && a.index < b.index)

/-- The oldest block of a list. -/
def oldestBlock (l : List Block) : Option Block :=
  match l with
  | [] => none
  | b :: r => match oldestBlock r with | some x => some (if x.older b then x else b) | none => some b

/-- The youngest block of a list. -/
def youngestBlock (l : List Block) : Option Block :=
  match l with
  | [] => none
  | b :: r => match youngestBlock r with | some x => some (if b.older x then x else b) | none => some b

/-- Physical tiles of the core that no name is bound to. -/
def Core.freePhys (c : Core) : List Nat := (List.range 96).filter fun p => (mget none c.tileUse p).isNone

/-- The block holds a physical tile. -/
def Block.holdsTiles (b : Block) : Bool := b.tiles.any fun (_, t) => match t with | some (.bound _) => true | _ => false

/-- What revoking the tiles of a block whose ordinary threads have all exited discards besides: none of its threads runs again, so that its comet threads are
gone and its comet reads cancelled, and no matrix word that is held for it, bound to a phase or waiting in a stitch register enters the queue (R235; the cancelled
reads: DESIGN CHOICE, log entry 108). -/
def Core.endThreads (c : Core) (blk : Nat) : Core :=
  let keep (h : HeldWord) : Bool := match h with | .mat _ => false | .xfer o => !o.comet | _ => true
  let matrix (p : Posted) : Bool := match p with | .mat _ => true | _ => false
  let still (s : Stitch) : Stitch :=
    let l := s.backlog.filter fun p => !matrix p
    { s with posted := s.posted.filter (fun p => !matrix p), bound := if s.backlog.isEmpty then s.bound else if l.isEmpty then .none else .waiting l }
  let gone (t : Thread) : Thread :=
    let t1 := { t with held := t.held.filter keep }
    if t.comet.isSome then { t1 with st := .exited, pend := [], inCourse := false, parkMark := false, tmo := none, comet := none } else t1
  let c1 := (c.dropCourses blk).modBlock blk fun b =>
    { b with threads := b.threads.map (fun (s, t) => (s, gone t)), stitches := b.stitches.map fun (k, s) => (k, still s) }
  { c1 with xferQ := c1.xferQ.filter (fun o => !(o.comet && o.org.blk == blk)), comets := c1.comets.filter fun r => r.org.blk != blk }

/-- The operations of a block that end with its threads: its comet reads, the fetches and the WAITM reads. -/
def Core.threadDrops (c : Core) (core blk : Nat) (x : Susp) : Bool :=
  match x with
  | .sweep _ _ => false
  | .ply _ _ => false
  | x => c.restartDrops core blk x

/-- A block's tiles are revoked, once the k-block in progress is over: it stops, its matrix operations are discarded, and it restarts (R235). -/
def Dev.revoke (m : Dev) (ft : Features) (core : Nat) (b : Block) : Dev :=
  match m.stopMatrix ft core b with
  | (none, m1) => m1
  | (some j, m1) =>
    let m2 := m1.modCore core fun c => c.freeTiles b.id
    if b.over then
      let reads := ((m2.core core).comets.filter fun r => r.org.blk == b.id).map fun r => r.org.id
      ((m2.modCtx b.asid fun x => x.untag ((m2.core core).threadDrops core b.id)).forget core b.asid fun r => r.op == b.id || reads.contains r.op).modCore core
        fun c => c.endThreads b.id
    else
      match m2.block core b.id with
      | some b2 => m2.restartOr core b2 j (b2.faultCharge core .matrix) 0x1B
      | none => m2

/-- A waiting request is met: its names are bound to free tiles, undefined until zeroed, and its value is there (R232, R234). -/
def Dev.grant (m : Dev) (core : Nat) (w : AccWait) : Dev :=
  let phys := (m.core core).freePhys.take w.n
  let m1 := phys.zipIdx.foldl (fun (x : Dev) (p, i) =>
    { x with freeCtr := x.freeCtr + 4096 }.modCore core fun c =>
      ({ c with
        tileUse := mput none c.tileUse p (some (w.blk, w.first + i)), tiles := mput [] c.tiles p []
        tileUndef := mput none c.tileUndef p (some x.freeCtr) }).modBlock w.blk fun b => { b with tiles := mput none b.tiles (w.first + i) (some (.bound p)) }) m
  (m1.modCore core fun c => { c with accWaits := c.accWaits.filter fun x => x.id != w.id }).modThread core w.blk w.slot fun t =>
    t.obtain w.pend [BitVec.ofNat 32 (w.first + 256 * w.n)]

/-- The oldest waiting request: of the oldest block that has one, the one issued first (R235); those of halting contexts wait for nothing (R303). A block that is
away waits like any other (DESIGN CHOICE, log entry 115). -/
def Dev.oldestWait (m : Dev) (core : Nat) : Option (Block × AccWait) :=
  let c := m.core core
  match oldestBlock (c.blocks.filter fun b => m.live b.asid && c.accWaits.any fun w => w.blk == b.id) with
  | some b => (c.accWaits.find? fun w => w.blk == b.id).map fun w => (b, w)
  | none => none

/-- The oldest request is met, younger blocks that hold tiles being revoked, the youngest first, until it is or none is left; the tiles of halted contexts
stay held (R303). (DESIGN CHOICE, log entry 115.) -/
def Dev.grantLoop (m : Dev) (ft : Features) (core fuel : Nat) : Dev :=
  match fuel with
  | 0 => m
  | k + 1 =>
    let c := m.core core
    match m.oldestWait core with
    | none => m
    | some (o, w) =>
      if w.n ≤ c.freePhys.length then m.grant core w
      else
        match youngestBlock (c.blocks.filter fun b => b.holdsTiles && o.older b && m.live b.asid) with
        | none => m
        | some y => if c.inClause y.id then m else (m.revoke ft core y).grantLoop ft core k

/-- ACC_GRANT: the oldest waiting tile request is granted, revoking younger blocks' tiles where that is needed (R235). -/
def execAccGrant (core : Nat) (s : State) : Host.Outcome State Fault Refusal :=
  onM s fun ft m =>
    if (m.oldestWait core).isSome then m.grantLoop ft core 17 else m

end Sys2Proof.Machine
end

