-- ==== Sys2Proof/Machine/VecArith.lean ====
section
/-! DEFINITION. Vector arithmetic in binary32 shared by the sweep and ply units: the sum order of R131, the normalisation of R133. -/

namespace Sys2Proof.Machine

open Sys2Proof

/-- One level of the pairwise tree: neighbours added. -/
def addPairs (sat : Bool) (l : List Word) : List Word :=
  match l with
  | a :: b :: r => f32Add sat a b :: addPairs sat r
  | l => l

/-- The tree sum of one segment of 16 elements (R131). -/
def segSum (sat : Bool) (l : List Word) : Word := (addPairs sat (addPairs sat (addPairs sat (addPairs sat l)))).getD 0 0

/-- The running total across segments: it starts from the first segment's sum, not from zero (R131). -/
def addTotal (sat : Bool) (t : Option Word) (s : Word) : Word :=
  match t with
  | some x => f32Add sat x s
  | none => s

/-- Cuts a list into segments of 16. -/
def segments (fuel : Nat) (l : List Word) : List (List Word) :=
  match fuel with
  | 0 => []
  | k + 1 => if l.isEmpty then [] else l.take 16 :: segments k (l.drop 16)

/-- The sum of a vector of whole segments (R131). -/
def vecSum (sat : Bool) (l : List Word) : Word :=
  ((segments l.length l).foldl (fun t s => some (addTotal sat t (segSum sat s))) none).getD 0

/-- A number of elements as a binary32 value. -/
def f32OfNat (n : Nat) : Word := f32Round false (.fin false n 0)

/-- The normalising factor from q over N elements (R133): 1/√ms, or 0 when ms is +0. -/
def rmsFactor (q : Word) (n : Nat) : Word :=
  let ms := f32Div q (f32OfNat n)
  if ms == 0 then 0 else f32Finish false (f32 ms).rsqrt

/-- One element of VRMS (R133). -/
def rmsElem (factor a b : Word) : Word := f32Mul false (f32Mul false a factor) b

/-- A vector normalised with every scale element 1 (R133, R269). -/
def normalise (l : List Word) : List Word :=
  let r := rmsFactor (vecSum false (l.map fun a => f32Mul false a a)) l.length
  l.map fun a => rmsElem r a 0x3F800000

end Sys2Proof.Machine
end

