-- ==== Sys2Proof/Machine/Ply.lean ====
section
/-! DEFINITION. The ply unit (R263 to R279, R398 to R401): its queue, the checks at execution, PLYMATCH, PLYMERGE, PLYSPLIT, PLYKEEP and
PLYFREE, the names of ply maps and how physical maps are obtained. -/

namespace Sys2Proof.Machine

open Sys2Proof

/-! ### Issue (R264, R265) -/

/-- A ply word enters the queue, or is held for its member where the queue is full or operations issued earlier wait for it (R227, R265). -/
def Env.enqPly (e : Env) (o : PlyOp) (m : Dev) : Dev :=
  let c := m.core e.cu.core
  if c.plyQ.length < 64 && (c.heldFor .ply).isEmpty then m.fresh.setCore e.cu.core { c with plyQ := c.plyQ ++ [o] }
  else e.mod m.fresh fun x => { x with held := x.held ++ [.ply o] }

/-- The operation of a ply word, its registers read as it issues or posts (R264). -/
def plyOf (e : Env) (t : Thread) (f : PL) (kind : PlyKind) (id : Nat) : PlyOp :=
  { org := e.origin t id, kind := kind, map := f.map.toNat, d := t.reg f.d.toNat, a := t.reg f.a.toNat, b := t.reg f.b.toNat, c := t.reg f.c.toNat,
    ty := f.ty.toNat, obtains := false, got := none }

/-- PLYMATCH (R399), bound where the word says so (R53). -/
def execPlymatch (c : Ctl) (f : PL) (s : State) : Host.Outcome State Fault Refusal :=
  word c s fun e t m =>
    let o := plyOf e t f .match_ m.nextId
    if f.sb == 1 then e.post f.stitch.toNat (.ply o) m.fresh else e.enqPly o m

/-- PLYMERGE (R400). -/
def execPlymerge (c : Ctl) (f : PL) (s : State) : Host.Outcome State Fault Refusal :=
  word c s fun e t m => e.enqPly (plyOf e t f .merge m.nextId) m

/-- PLYSPLIT (R401). -/
def execPlysplit (c : Ctl) (f : PL) (s : State) : Host.Outcome State Fault Refusal :=
  word c s fun e t m => e.enqPly (plyOf e t f .split m.nextId) m

/-- PLYKEEP (R398). -/
def execPlykeep (c : Ctl) (f : PL) (s : State) : Host.Outcome State Fault Refusal :=
  word c s fun e t m => e.enqPly (plyOf e t f .keep m.nextId) m

/-- PLYFREE (R398). -/
def execPlyfree (c : Ctl) (f : PL) (s : State) : Host.Outcome State Fault Refusal :=
  word c s fun e t m => e.enqPly (plyOf e t f .free m.nextId) m

/-! ### Names and physical maps (R275 to R277) -/

/-- The state of a block's ply name. -/
def Block.ply (b : Block) (k : Nat) : PlyName := mget .free b.plys k

/-- Sets it; leaving Saved drops the kept copy (R276). -/
def Block.setPly (b : Block) (k : Nat) (n : PlyName) : Block :=
  { b with plys := mput .free b.plys k n, saved := if n = .saved then b.saved else merase b.saved k }

/-- An empty map. -/
def emptyMap : PlyMap := { n := 0, r := 0, dest := [] }

/-- The map of a name: in its physical map, or in the kept-map area. -/
def Core.plyMap (c : Core) (b : Block) (k : Nat) : PlyMap :=
  match b.ply k with
  | .valid p _ => (mget none c.plyStore p).getD emptyMap
  | .saved => mget emptyMap b.saved k
  | _ => emptyMap

/-- The physical map that a block's highest Valid name holds, with that name. -/
def Block.highestMap (b : Block) : Option (Nat × Nat) :=
  (List.range 8).reverse.findSome? fun k => match b.ply k with | .valid p _ => some (k, p) | _ => none

/-- A name leaves Valid for Saved or Lost (R276): its map goes to the kept-map area where it is kept. -/
def Core.dropMap (c : Core) (b : Block) (k : Nat) : Block :=
  match b.ply k with
  | .valid _ true => { b.setPly k .saved with saved := minsert b.saved k (c.plyMap b k) }
  | .valid _ false => b.setPly k .lost
  | _ => b

/-- The operations that have issued and not started, in queue order: those that blocks abandoned before, ahead of every block's (R279; DESIGN CHOICE, log entry 119),
then the queue. -/
def Core.plyLine (c : Core) : List PlyOp := c.blocks.filterMap (fun b => b.abandoned) ++ c.plyQ

/-- Changes the waiting operation with a number. -/
def Core.plySet (c : Core) (id : Nat) (f : PlyOp → PlyOp) : Core :=
  let g (o : PlyOp) : PlyOp := if o.org.id == id then f o else o
  { c with plyQ := c.plyQ.map g, blocks := c.blocks.map fun b => { b with abandoned := b.abandoned.map g } }

/-- An operation leaves the line. -/
def Core.plyTake (c : Core) (o : PlyOp) : Core :=
  let keep (x : PlyOp) : Bool := x.org.id != o.org.id
  { c with plyQ := c.plyQ.filter keep, blocks := c.blocks.map fun b => { b with abandoned := b.abandoned.filter keep } }

/-- Physical maps of the core that no name holds and no operation has obtained. -/
def Core.freeMaps (c : Core) : List Nat :=
  (List.range 8).filter fun p =>
    !(c.blocks.any fun b => b.plys.any fun (_, n) => match n with | .valid q _ => q == p | _ => false) &&
      !(c.plyLine ++ c.plyRun.toList).any fun o => o.got == some p

/-- A physical map for a block: a free one, else the highest name's of the youngest younger block that holds one (R277); those of halted contexts stay
held (R303), and so do those of the block whose operation executes. (DEDUCED, log entry 36.) -/
def Dev.obtainMap (m : Dev) (core : Nat) (b : Block) : Option (Nat × Dev) :=
  let c := m.core core
  match c.freeMaps with
  | p :: _ => some (p, m)
  | [] =>
    match youngestBlock (c.blocks.filter fun x => b.older x && x.highestMap.isSome && m.live x.asid && !c.plyRun.any fun o => o.org.blk == x.id) with
    | none => none
    | some y => y.highestMap.map fun (k, p) => (p, m.setCore core (c.modBlock y.id fun x => c.dropMap x k))

/-- No waiting operation of an older block stands aside (R277); a halted context's wait for nothing (R303). (DEDUCED, log entry 36.) -/
def Dev.mapTurn (m : Dev) (core : Nat) (b : Block) : Bool :=
  let c := m.core core
  !c.plyLine.any fun o => o.obtains && match c.block o.org.blk with | some x => x.older b && m.live x.asid | none => false

/-- An operation that needs a physical map with the one it has or obtains: a PLYMATCH of a name that holds none, a restore from Saved (R277). None where it
must wait. -/
def Dev.plyGets (m : Dev) (core : Nat) (b : Block) (o : PlyOp) : Option (PlyOp × Dev) :=
  let needs := match o.kind, b.ply o.map with
    | .match_, .valid _ _ => false
    | .match_, _ => true
    | _, n => n = .saved
  if !needs || o.got.isSome then some (o, m)
  else if m.mapTurn core b then (m.obtainMap core b).map fun (p, m1) => ({ o with got := some p, obtains := false }, m1)
  else none

/-! ### Operands (R263, R266) -/

/-- Bytes of an element (R263). -/
def plyE (ty : Nat) : Nat := if ty = 10 then 4 else 2

/-- The row width of an operation: D of PLYMATCH, W of the others (R264). -/
def PlyOp.width (o : PlyOp) : Nat :=
  match o.kind with
  | .match_ => o.c.toNat
  | .merge => bitsOf o.c.toNat 20 9
  | _ => bitsOf o.b.toNat 0 9

/-- An operand: its register's offset value and its length in bytes. -/
structure PlySpan where
  off : Nat
  len : Nat
  deriving DecidableEq, Repr

/-- Input operands for a map of N and r. -/
def PlyOp.inputs (o : PlyOp) (n r : Nat) : List PlySpan :=
  let row := o.width * plyE o.ty
  match o.kind with
  | .match_ => [{ off := o.a.toNat, len := n * row }]
  | .merge => [{ off := o.a.toNat, len := n * row }, { off := o.b.toNat, len := 4 * n }]
  | .split => [{ off := o.a.toNat, len := (n - r) * row }]
  | _ => []

/-- Output operands for a map of N and r. -/
def PlyOp.outputs (o : PlyOp) (n r : Nat) : List PlySpan :=
  let row := o.width * plyE o.ty
  match o.kind with
  | .merge => [{ off := o.d.toNat, len := (n - r) * row }, { off := bitsOf o.c.toNat 0 20, len := 4 * (n - r) }]
  | .split => [{ off := o.d.toNat, len := n * row }]
  | _ => []

/-- The check of the register fields (R266), before the name is looked at. -/
def PlyOp.shapeBad (o : PlyOp) : Option Nat :=
  let w := o.width
  let n := o.b.toNat
  if o.kind == .match_ && (n < 2 || 4096 < n) then some 0x70
  else if (o.kind == .match_ || o.kind == .merge || o.kind == .split) && (w % 16 != 0 || w < 16 || 256 < w) then some 0x71
  else if o.kind == .match_ && n / 2 < o.d.toNat then some 0x72
  else if (o.kind == .merge && bitsOf o.c.toNat 29 3 != 0) || (o.kind == .split && bitsOf o.b.toNat 9 23 != 0) then some 0x73
  else none

/-- N and r that the operation works with. -/
def PlyOp.size (o : PlyOp) (c : Core) (b : Block) : Nat × Nat :=
  match o.kind with
  | .match_ => (o.b.toNat, o.d.toNat)
  | _ => let p := c.plyMap b o.map; (p.n, p.r)

/-- Two operands share a byte. -/
def PlySpan.meets (x y : PlySpan) : Bool := x.off < y.off + y.len && y.off < x.off + x.len

/-- The first check of R266 that an operation fails; where the name is Lost, the rows for offsets, window and overlap are not looked at (DESIGN CHOICE,
log entry 104). -/
def PlyOp.check (o : PlyOp) (c : Core) (b : Block) : Option Flt :=
  match o.shapeBad with
  | some f => some (Flt.shape f)
  | none =>
    let (n, r) := o.size c b
    let ins := o.inputs n r
    let outs := o.outputs n r
    let bad (x : PlySpan) : Bool := x.off % 64 != 0 || 2 ^ 20 ≤ x.off || b.winSize < x.off + x.len
    if (o.kind == .merge || o.kind == .split || o.kind == .keep) && b.ply o.map = .free then some (Flt.plain 0x10)
    else if b.ply o.map = .lost && o.kind != .match_ then none
    else if (ins ++ outs).any bad then some (Flt.plain 0x14)
    else if outs.any (fun x => ins.any fun y => x.meets y) then some (Flt.shape 0x74)
    else
      match outs with
      | [x, y] => if x.meets y then some (Flt.shape 0x74) else none
      | _ => none

/-! ### Computation (R269 to R273) -/

/-- An element as a binary32 word (R263). -/
def plyVal (ty w : Nat) : Word :=
  match ty with
  | 8 => f32Round false (FFmt.f16.decode w)
  | 9 => f32Round false (FFmt.bf16.decode w)
  | 10 => BitVec.ofNat 32 w
  | _ => f32Round false (decodeTapered w 16 1)

/-- Out of R272. -/
def plyOut (ty : Nat) (x : Word) : Nat :=
  match ty with
  | 8 => FFmt.f16.round .rne false (f32 x)
  | 9 => FFmt.bf16.round .rne false (f32 x)
  | 10 => x.toNat
  | _ => match f32 x with | .nan => 0x8000 | v => encodeTapered v 16 1 .rne

/-- Sim of R269. -/
def plySim (x y : List Word) : Word := (x.zip y).foldl (fun a p => f32Fma false p.1 p.2 a) 0

/-- Above of R269. -/
def plyAbove (v w : Word) : Bool :=
  if f32IsNan w then !f32IsNan v else !f32IsNan v && (f32 v).cmp (f32 w) == .gt

/-- The match of an A row among the B rows, ascending: only a strictly higher value replaces it (R270). -/
def plyBest (rows : List (List Word)) (a : Nat) : Nat × Word :=
  let x := rows.getD a []
  ((List.range (rows.length / 2)).drop 1).foldl (fun (p : Nat × Word) i =>
    let v := plySim x (rows.getD (2 * i + 1) [])
    if plyAbove v p.2 then (2 * i + 1, v) else p) (1, plySim x (rows.getD 1 []))

/-- Inserts an A token into the ranking: before the first one it precedes (R270). -/
def plyInsert (l : List (Nat × Nat × Word)) (x : Nat × Nat × Word) : List (Nat × Nat × Word) :=
  match l with
  | [] => [x]
  | y :: r => if plyAbove x.2.2 y.2.2 || (!plyAbove y.2.2 x.2.2 && x.1 < y.1) then x :: y :: r else y :: plyInsert r x

/-- PlyMatch of R270: the map of N normalised rows and merge count r. -/
def plyMatchMap (rows : List (List Word)) (r : Nat) : PlyMap :=
  let n := rows.length
  let nA := (n + 1) / 2
  let bests := (List.range nA).map fun i => (2 * i, plyBest rows (2 * i))
  let merged := ((bests.foldl plyInsert []).take r).map fun p => (p.1, p.2.1)
  let posB (b : Nat) : Nat := (nA - r) + (b - 1) / 2
  let isMerged (a : Nat) : Bool := merged.any fun p => p.1 == a
  let dest (i : Nat) : Nat :=
    if i % 2 = 1 then posB i
    else
      match merged.find? fun p => p.1 == i with
      | some (_, b) => posB b
      | none => ((List.range (i / 2)).filter fun k => !isMerged (2 * k)).length
  { n := n, r := r, dest := (List.range n).map dest }

/-- Rows of words cut from bytes. -/
def plyRows (l : List Byte) (n w ty : Nat) : List (List Nat) :=
  let e := plyE ty
  (List.range n).map fun i => unpackWords (8 * e) w (ofBytes ((l.drop (i * w * e)).take (w * e)))

/-- One merged row and its size (R272); the first source is the B token, the others ascending. -/
def plyMergeRow (ty : Nat) (rows : List (List Nat × Word)) : List Nat × Word :=
  match rows with
  | [] => ([], 0)
  | [x] => x
  | (xb, sb) :: as =>
    let total := as.foldl (fun t a => f32Add false t a.2) sb
    let el (j : Nat) : Nat :=
      let n0 := f32Mul false sb (plyVal ty (xb.getD j 0))
      let n := as.foldl (fun n a => f32Fma false a.2 (plyVal ty (a.1.getD j 0)) n) n0
      plyOut ty (f32Div n total)
    ((List.range xb.length).map el, total)

/-- The merged rows and sizes of a map (R272). -/
def plyMergeAll (ty : Nat) (p : PlyMap) (rows : List (List Nat)) (sizes : List Word) : List (List Nat × Word) :=
  (List.range (p.n - p.r)).map fun j =>
    let src := (List.range p.n).filter fun i => p.dest.getD i 0 == j
    let src := src.filter (fun i => i % 2 == 1) ++ src.filter fun i => i % 2 == 0
    plyMergeRow ty (src.map fun i => (rows.getD i [], sizes.getD i 0))

/-! ### Execution -/

/-- The charge of a ply operation's faults (R299). -/
def PlyOp.charge (o : PlyOp) (core : Nat) : Charge := o.org.charge .ply core 0 0

/-- Reads an operand from the stash. -/
def plyRead (ft : Features) (ag : Agent) (core : Nat) (b : Block) (x : PlySpan) : Act (List Byte) := stashRead ft ag core (b.winBase + x.off) x.len

/-- Touches every segment of the operands; an output in a read-only entry takes the protection fault (R268). -/
def plyTouch (ft : Features) (ag : Agent) (core : Nat) (b : Block) (ins outs : List PlySpan) : Act Unit := do
  let m ← get
  for x in outs do
    for i in List.range (x.len / 4) do
      match (m.core core).cover (b.winBase + x.off + 4 * i) with
      | some (k, _) =>
        let ro := match mget none (m.core core).skeins k with | some e => e.mode == 0 && (b.winBase + x.off + 4 * i - e.lo) / 4 < e.words | none => false
        if ro then actFault { Flt.plain 0x10 with wr := true }
      | none => pure ()
  for x in ins do
    touchRange ft ag core (b.winBase + x.off) x.len false
  for x in outs do
    touchRange ft ag core (b.winBase + x.off) x.len true

/-- Binds name `k` to a physical map with a new map, Valid and kept where the launch says so (R276). -/
def Dev.bindMap (m : Dev) (core blk k p : Nat) (kept : Bool) (x : PlyMap) : Dev :=
  m.modCore core fun c => { c with plyStore := mput none c.plyStore p (some x) }.modBlock blk fun b => b.setPly k (.valid p kept)

/-- The physical map that a PLYMATCH writes: its name's, else the one it has obtained. -/
def PlyOp.target (o : PlyOp) (b : Block) : Option Nat := match b.ply o.map with | .valid p _ => some p | _ => o.got

/-- The whole of an operation after its checks (R268 to R273). (DEDUCED, log entry 36.) -/
def plyRunOp (ft : Features) (core : Nat) (b : Block) (o : PlyOp) : Act Unit := do
  let m ← get
  let (n, r) := o.size (m.core core) b
  let ins := o.inputs n r
  let outs := o.outputs n r
  let ag := engineAgent b.asid (o.charge core)
  plyTouch ft ag core b ins outs
  let rowsAt (x : PlySpan) (k : Nat) : Act (List (List Nat)) := do
    let l ← plyRead ft ag core b x
    pure (plyRows l k o.width o.ty)
  match o.kind, ins, outs with
  | .match_, [x], _ =>
    let rows ← rowsAt x n
    let p := plyMatchMap (rows.map fun l => normalise (l.map (plyVal o.ty))) r
    match o.target b with
    | some q => modify fun m => m.bindMap core b.id o.map q b.rec_.plykeep p
    | none => pure ()
  | .merge, [x, s], [y, t] =>
    let rows ← rowsAt x n
    let sizes := unpackWords 32 n (ofBytes (← plyRead ft ag core b s))
    let out := plyMergeAll o.ty ((m.core core).plyMap b o.map) rows (sizes.map fun v => BitVec.ofNat 32 v)
    stashWrite ft ag core (b.winBase + y.off) (out.flatMap fun p => packBytes (8 * plyE o.ty) p.1)
    stashWrite ft ag core (b.winBase + t.off) (out.flatMap fun p => toBytes 4 p.2.toNat)
  | .split, [x], [y] =>
    let rows ← rowsAt x (n - r)
    let p := (m.core core).plyMap b o.map
    stashWrite ft ag core (b.winBase + y.off) ((List.range n).flatMap fun i => packBytes (8 * plyE o.ty) (rows.getD (p.dest.getD i 0) []))
  | _, _, _ => pure ()

/-- The operation that starts next: the first of the line that does not stand aside, with no earlier one of its block before it (R265, R279), of a block that
is on its core; those of blocks that are away are passed over (DESIGN CHOICE, log entry 118). -/
def Core.plyNext (c : Core) : Option PlyOp :=
  (c.plyLine.zipIdx.find? fun (o, i) =>
    !o.obtains && !(c.plyLine.take i).any (fun x => x.org.blk == o.org.blk) &&
      match c.block o.org.blk with | some b => b.bst == .running || b.bst == .exited | none => true).map fun p => p.1

/-- The name of an operation is Lost where it needs a map, or cannot be restored (R278). -/
def Dev.plyLost (m : Dev) (ft : Features) (b : Block) (o : PlyOp) : Bool :=
  o.kind != .match_ && o.kind != .free && (b.ply o.map = .lost || (b.ply o.map = .saved && o.kind != .keep && m.keptUnreadable ft b o.map))

/-- An operation finds its name Lost (R278): the block restarts by R238, its matrix operations stopped by R239, once no course of the block is inside
a clause; a block with no label takes the fault "ply map lost" and the operation is gone. (DEDUCED, log entry 25; DEDUCED, log entry 37.) -/
def Dev.plyLose (m : Dev) (ft : Features) (core : Nat) (b : Block) (o : PlyOp) : Dev :=
  if b.rstLabel == 0 then (m.modCore core fun c => c.plyTake o).charge b.asid (o.charge core) (Flt.plain 0x1A) (.ply core o.org.id)
  else if (m.core core).inClause b.id then m
  else
    match m.stopMatrix ft core b with
    | (none, m1) => m1
    | (some j, m1) =>
      let m2 := m1.modCore core fun c => c.plyTake o
      match m2.block core b.id with
      | some b1 => m2.restartBlock core b1 j
      | none => m2

/-- An operation reaches execution (R266, R276 to R278): PLYKEEP and PLYFREE act at once, the others occupy the unit, or stand aside
where they must wait for a physical map, keeping their entries (R265). -/
def Dev.plyStart (m : Dev) (ft : Features) (core : Nat) (b : Block) (o : PlyOp) : Dev :=
  let c := m.core core
  let taken := m.setCore core (c.plyTake o)
  match o.check c b with
  | some f => (taken.modCore core fun x => { x with plyRun := some o }).charge b.asid (o.charge core) f (.ply core o.org.id)
  | none =>
    if m.plyLost ft b o then (if b.over then taken else m.plyLose ft core b o)
    else
      match o.kind with
      | .keep => taken.modBlock core b.id fun x => match x.ply o.map with | .valid p _ => x.setPly o.map (.valid p true) | _ => x
      | .free => taken.modBlock core b.id fun x => x.setPly o.map .free
      | _ =>
        match m.plyGets core b o with
        | none => m.modCore core fun x => x.plySet o.org.id fun y => { y with obtains := true }
        | some (o1, m1) =>
          let (run, m2) := match o1.kind, o1.got with
            | .match_, _ => (o1, m1)
            | _, some p => ({ o1 with got := none }, m1.bindMap core b.id o.map p true (mget emptyMap b.saved o.map))
            | _, none => (o1, m1)
          let m3 := m2.modCore core fun x => { x.plyTake o with plyRun := some run }
          match m3.block core b.id with
          | none => m3
          | some b2 =>
            let (n, r) := run.size (m3.core core) b2
            match (plyTouch ft (engineAgent b.asid (o.charge core)) core b2 (run.inputs n r) (run.outputs n r)).go m3 with
            | (.error (.flt f), m4) => m4.charge b.asid (o.charge core) f (.ply core o.org.id)
            | (_, m4) => m4

/-- PLY_OP_START: the next ply operation reaches execution, is checked and touches its operands (R265, R266, R268); maps that it moves to or from Saved are written
to or read from the kept-map area (R276). -/
def execPlyOpStart (core : Nat) (s : State) : Host.Outcome State Fault Refusal :=
  onM s fun ft m =>
    let c := m.core core
    match c.plyRun, c.plyNext with
    | none, some o =>
      match c.block o.org.blk with
      | none => m.setCore core (c.plyTake o)
      | some b => if m.live b.asid && c.accsDone o.org.blk o.org.after && !m.suspended b.asid (.ply core o.org.id) then m.withKept ft core fun m => m.plyStart ft core b o else m
    | _, _ => m

/-- What running an operation leaves behind: it is complete, waits, or has faulted. -/
def Dev.plyFinish (m : Dev) (ft : Features) (core : Nat) (b : Block) (o : PlyOp) : Dev :=
  match (plyRunOp ft core b o).go m with
  | (.ok _, m1) => m1.modCore core fun c => { c with plyRun := none }
  | (.error .wait, m1) => m1
  | (.error (.flt f), m1) => m1.charge b.asid (o.charge core) f (.ply core o.org.id)

/-- PLY_OP_COMPLETE: the executing operation has its whole effect (R267, R270, R272, R273). (DESIGN CHOICE, log entry 27.) -/
def execPlyOpComplete (core : Nat) (s : State) : Host.Outcome State Fault Refusal :=
  onM s fun ft m =>
    match (m.core core).plyRun with
    | none => m
    | some o =>
      match m.block core o.org.blk with
      | none => m.modCore core fun c => { c with plyRun := none }
      | some b => if m.live b.asid && !m.suspended b.asid (.ply core o.org.id) then m.withKept ft core fun m => m.plyFinish ft core b o else m

/-- PLY_MAP_OBTAIN: an operation that stands aside for a physical map obtains one, and is the next of its block to execute (R277). (DEDUCED, log entry 36.) -/
def execPlyMapObtain (core blk : Nat) (s : State) : Host.Outcome State Fault Refusal :=
  onM s fun ft m =>
    let c := m.core core
    match c.plyLine.find? fun o => o.org.blk == blk && o.obtains, c.block blk with
    | some o, some b =>
      if !m.live b.asid || !m.mapTurn core b then m
      else m.withKept ft core fun m =>
        match m.obtainMap core b with
        | some (p, m1) => m1.modCore core fun x => x.plySet o.org.id fun y => { y with obtains := false, got := some p }
        | none => m
    | _, _ => m

end Sys2Proof.Machine
end

