-- ==== Sys2Proof/Machine/Sweep.lean ====
section
/-! DEFINITION. The sweep unit (R161 to R164, R423 to R428): its words, the window check, its iterations. -/

namespace Sys2Proof.Machine

open Sys2Proof

/-! ### Issue (R424) -/

/-- A sweep word enters the queue, or is held for its member where the queue is full or operations issued earlier wait for it (R227, R424). -/
def Env.enqSweep (e : Env) (o : SweepOp) (m : Dev) : Dev :=
  let c := m.core e.cu.core
  if c.sweepQ.length < 64 && (c.heldFor .sweep).isEmpty then m.fresh.setCore e.cu.core { c with sweepQ := c.sweepQ ++ [o] }
  else e.mod m.fresh fun x => { x with held := x.held ++ [.sweep o] }

/-- Bytes that 16 elements of a format occupy (R426). -/
def packLen (f : NumFmt) : Nat := 2 * f.bits

/-- Groups of 8 elements in a segment of VSPC (R428). -/
def pruneGroups (t : PruneType) : Nat := match t with | .f16 => 4 | .bf16 => 4 | _ => 8

/-- The runs of stash bytes that iteration `i` touches: sources, then destinations (R161, R426 to R428). -/
def SweepOp.spans (o : SweepOp) (b : Block) (i : Nat) : List (Int × Nat) :=
  let seg (x : Word) (st : BitVec 7) : Int × Nat := ((x.toNat : Int) + 64 * i * st.toInt, 64)
  let at_ (x : Word) (n : Nat) : Int × Nat := ((x.toNat + i * n : Nat), n)
  match o.kind with
  | .exp | .copy => [seg o.a o.sa, seg o.d o.sd]
  | .sum => [seg o.a o.sa, ((o.d.toNat : Int), 64)]
  | .pk s => [seg o.a o.sa, at_ o.d (packLen (b.slot s).fmt)]
  | .up s => [at_ o.a (packLen (b.slot s).fmt), seg o.d o.sd]
  | .spc t => [seg o.a o.sa, at_ o.d 32, at_ o.b (3 * pruneGroups t / 2)]
  | _ => [seg o.a o.sa, seg o.b o.sb, seg o.d o.sd]

/-- The registers whose offsets must be multiples of 64 (R162). -/
def SweepOp.offsets (o : SweepOp) : List Word :=
  match o.kind with
  | .exp | .copy | .sum | .pk _ | .up _ => [o.d, o.a]
  | _ => [o.d, o.a, o.b]

/-- The check of R162 as the word issues. -/
def SweepOp.bad (o : SweepOp) (b : Block) : Bool :=
  o.n != 0 && (o.offsets.any (fun x => x.toNat % 64 != 0) ||
    (List.range o.n).any fun i => (o.spans b i).any fun (p, l) => p < 0 || (b.winSize : Int) < p + l)

/-- The operation of a sweep word, its registers read as it issues. -/
def sweepOf (e : Env) (t : Thread) (f : SW) (kind : SweepKind) (id : Nat) : SweepOp :=
  { org := e.origin t id, kind := kind, n := f.n.toNat, d := t.reg f.d.toNat, a := t.reg f.a.toNat, b := t.reg f.b.toNat, sd := f.sd, sa := f.sa,
    sb := f.sb, sat := f.sat == 1, iter := 0, scal := [], out := [] }

/-- A sweep word (R162, R424). -/
def sweepWord (kind : SweepKind) (f : SW) (e : Env) (t : Thread) (m : Dev) : Dev :=
  let o := sweepOf e t f kind m.nextId
  if o.bad e.blk then e.fault m (Flt.plain 0x14) else if o.n = 0 then m else e.enqSweep o m

/-- VADD (R425). -/
def execVadd (c : Ctl) (f : SW) (s : State) : Host.Outcome State Fault Refusal := word c s (sweepWord .add f)

/-- VMUL (R425). -/
def execVmul (c : Ctl) (f : SW) (s : State) : Host.Outcome State Fault Refusal := word c s (sweepWord .mul f)

/-- VFMA (R425). -/
def execVfma (c : Ctl) (f : SW) (s : State) : Host.Outcome State Fault Refusal := word c s (sweepWord .fma f)

/-- VMAX (R425). -/
def execVmax (c : Ctl) (f : SW) (s : State) : Host.Outcome State Fault Refusal := word c s (sweepWord .max f)

/-- VEXP (R425). -/
def execVexp (c : Ctl) (f : SW) (s : State) : Host.Outcome State Fault Refusal := word c s (sweepWord .exp f)

/-- VCOPY (R425). -/
def execVcopy (c : Ctl) (f : SW) (s : State) : Host.Outcome State Fault Refusal := word c s (sweepWord .copy f)

/-- VSUM (R427). -/
def execVsum (c : Ctl) (f : SW) (s : State) : Host.Outcome State Fault Refusal := word c s (sweepWord .sum f)

/-- VRMS (R427). -/
def execVrms (c : Ctl) (f : SW) (s : State) : Host.Outcome State Fault Refusal := word c s (sweepWord .rms f)

/-- VSMB (R427). -/
def execVsmb (c : Ctl) (f : SW) (s : State) : Host.Outcome State Fault Refusal := word c s (sweepWord .smb f)

/-- VSPC (R428). -/
def execVspc (c : Ctl) (t : PruneType) (f : SW) (s : State) : Host.Outcome State Fault Refusal := word c s (sweepWord (.spc t) f)

/-- VCVT.pk (R426). -/
def execVcvtPk (c : Ctl) (slot : BitVec 3) (f : SW) (s : State) : Host.Outcome State Fault Refusal := word c s (sweepWord (.pk slot.toNat) f)

/-- VCVT.up (R426). -/
def execVcvtUp (c : Ctl) (slot : BitVec 3) (f : SW) (s : State) : Host.Outcome State Fault Refusal := word c s (sweepWord (.up slot.toNat) f)

/-! ### Arithmetic -/

/-- The greater of two elements by the rules of FMAX (R371, R425). -/
def vmaxElem (a b : Word) : Word := BitVec.ofNat 32 (pickFloat FFmt.f32 true a.toNat b.toNat)

/-- One element of an element-wise word (R425); `d` is the destination's old element. -/
def SweepKind.elem (k : SweepKind) (sat : Bool) (a b d : Word) : Word :=
  match k with
  | .add => f32Add sat a b
  | .mul => f32Mul sat a b
  | .fma => f32Fma sat a b d
  | .max => vmaxElem a b
  | .exp => f32Finish sat (f32 a).exp
  | _ => a

/-- u of VSMB (R132). -/
def smbU (a s : Word) : Word := f32Add false a (f32Finish false (f32 s).ln)

/-- x of VSMB from u and the largest u (R132). -/
def smbX (mx u : Word) : Word := f32Finish false (f32 (f32Round false ((f32 u).add .rne (f32 mx).neg))).exp

/-- The larger of the kept maximum and an element; a NaN stays. -/
def smbMax (m : Option Word) (u : Word) : Option Word :=
  match m with
  | none => some u
  | some x => if f32IsNan x || f32IsNan u then some f32Nan else if (f32 x).cmp (f32 u) == .lt then some u else some x

/-- Every result of the word is NaN: some u is NaN, or every u is -∞ (R132). -/
def smbDead (mx : Word) : Bool := f32IsNan mx || f32 mx == .inf true

/-- The magnitude of an element of VSPC: none for a NaN, which ranks above every number (R428). -/
def pruneMag (t : PruneType) (w : Nat) : Option FVal :=
  let v := match t with
    | .i8 => decodeRaw .i8 w
    | .e4m3 => decodeRaw .e4m3 w
    | .e5m2 => decodeRaw .e5m2 w
    | .f16 => decodeRaw .fp16 w
    | .bf16 => decodeRaw .bf16 w
  match v with
  | .nan => none
  | .inf _ => some (.inf false)
  | .fin _ m e => some (.fin false m e)

/-- The first magnitude is greater than the second (R428). -/
def magAbove (x y : Option FVal) : Bool :=
  match x, y with
  | none, none => false
  | none, some _ => true
  | some _, none => false
  | some a, some b => a.cmp b == .gt

/-- The indices that a group of 8 keeps, ascending: the four largest magnitudes, the lower index among equals (R428). -/
def keepIdx (t : PruneType) (ws : List Nat) : List Nat :=
  let mags := ws.map (pruneMag t)
  (List.range 8).filter fun i =>
    let x := mags.getD i none
    ((List.range 8).filter fun j =>
      magAbove (mags.getD j none) x || (j < i && !magAbove x (mags.getD j none))).length < 4

/-- Bits of an element of VSPC. -/
def pruneBits (t : PruneType) : Nat := match t with | .f16 => 16 | .bf16 => 16 | _ => 8

/-- One segment of VSPC: the bytes of its values and of its metadata (R428). -/
def pruneSegment (t : PruneType) (l : List Byte) : List Byte × List Byte :=
  let ws := unpackWords (pruneBits t) (8 * pruneGroups t) (ofBytes l)
  let gs := (List.range (pruneGroups t)).map fun g => (ws.drop (8 * g)).take 8
  let ks := gs.map (keepIdx t)
  let vals := (gs.zip ks).flatMap fun (g, k) => k.map fun i => g.getD i 0
  let codes := ks.map fun k => packWords 3 k
  (packBytes (pruneBits t) vals, packBytes 12 codes)

/-- Words of a segment's bytes. -/
def segWords (l : List Byte) : List Word := (unpackWords 32 (l.length / 4) (ofBytes l)).map fun v => BitVec.ofNat 32 v

/-- Bytes of words. -/
def wordBytes (l : List Word) : List Byte := l.flatMap fun w => toBytes 4 w.toNat

/-! ### Iterations (R161, R163, R427) -/

/-- Iterations of an operation, numbered across both passes (R427). -/
def SweepOp.total (o : SweepOp) : Nat :=
  match o.kind with
  | .sum => o.n + 1
  | .rms => 2 * o.n
  | .smb => 2 * o.n
  | _ => o.n

/-- The charge of a sweep operation's faults (R299). -/
def SweepOp.charge (o : SweepOp) (core : Nat) : Charge := o.org.charge .sweep core (BitVec.ofNat 32 o.iter) (BitVec.ofNat 32 o.n)

/-- Reads a run of the window. -/
def winRead (ft : Features) (core : Nat) (b : Block) (o : SweepOp) (p : Int × Nat) : Act (List Byte) :=
  stashRead ft (engineAgent b.asid (o.charge core)) core (b.winBase + p.1.toNat) p.2

/-- The kept scalars after one segment of a reduction's first pass (R131 to R133): VSMB keeps its u until the last segment, then the
largest u and the sum. -/
def SweepOp.accumulate (o : SweepOp) (a b : List Word) : List Word :=
  match o.kind with
  | .sum => [addTotal o.sat o.scal.head? (segSum o.sat a)]
  | .rms => [addTotal false o.scal.head? (segSum false (a.map fun x => f32Mul false x x))]
  | .smb =>
    let us := o.scal ++ (a.zip b).map fun p => smbU p.1 p.2
    if o.iter + 1 < o.n then us
    else
      let mx := (us.foldl smbMax none).getD 0
      [mx, vecSum false (us.map (smbX mx))]
  | _ => o.scal

/-- The element results of a reduction's second pass (R132, R133, R427). -/
def SweepOp.second (o : SweepOp) (a b : List Word) : List Word :=
  match o.kind with
  | .rms => let r := rmsFactor (o.scal.headD 0) (16 * o.n); (a.zip b).map fun p => rmsElem r p.1 p.2
  | _ =>
    let mx := o.scal.headD 0
    let s := (o.scal.tail).headD 0
    (a.zip b).map fun p => if smbDead mx then f32Nan else f32Div (smbX mx (smbU p.1 p.2)) s

/-- What iteration `iter` reads and computes: the operation with its kept scalars and the writes of the iteration, in order (R161, R428). -/
def sweepWork (ft : Features) (core : Nat) (b : Block) (o : SweepOp) : Act SweepOp := do
  let i := if o.n = 0 then 0 else o.iter % o.n
  let at_ (p : Int × Nat) (l : List Byte) : Nat × List Byte := (p.1.toNat, l)
  match o.kind, o.spans b i with
  | .sum, [a, d] =>
    if o.iter < o.n then
      let l ← winRead ft core b o a
      return { o with scal := o.accumulate (segWords l) [] }
    else return { o with out := [at_ d (wordBytes (o.scal.headD 0 :: List.replicate 15 0))] }
  | .exp, [a, d] =>
    let l ← winRead ft core b o a
    return { o with out := [at_ d (wordBytes ((segWords l).map fun x => SweepKind.exp.elem o.sat x 0 0))] }
  | .copy, [a, d] =>
    let l ← winRead ft core b o a
    return { o with out := [at_ d l] }
  | .pk s, [a, d] =>
    let l ← winRead ft core b o a
    return { o with out := [at_ d (packBytes (b.slot s).fmt.bits ((segWords l).map fun x => encodeFormat (b.slot s) (f32 x)))] }
  | .up s, [a, d] =>
    let l ← winRead ft core b o a
    return { o with out := [at_ d (wordBytes ((unpackWords (b.slot s).fmt.bits 16 (ofBytes l)).map fun x => f32Round false (decodeFormat (b.slot s) x)))] }
  | .spc t, [a, d, e] =>
    let l ← winRead ft core b o a
    let (v, x) := pruneSegment t l
    return { o with out := [at_ d v, at_ e x] }
  | k, [a, x, d] =>
    let la ← winRead ft core b o a
    let lb ← winRead ft core b o x
    if (k == .rms || k == .smb) && o.iter < o.n then return { o with scal := o.accumulate (segWords la) (segWords lb) }
    else if k == .rms || k == .smb then return { o with out := [at_ d (wordBytes (o.second (segWords la) (segWords lb)))] }
    else
      let ld ← if k == .fma then winRead ft core b o d else pure la
      return { o with
        out := [at_ d (wordBytes (((segWords la).zip ((segWords lb).zip (segWords ld))).map fun p => k.elem o.sat p.1 p.2.1 p.2.2))] }
  | _, _ => return o

/-- One iteration: it reads its sources before it writes its destination (R161). Writes that are still to be performed stay with the operation while one of
them waits or is suspended, and the sources are not read again. -/
def sweepIter (ft : Features) (core : Nat) (b : Block) (o : SweepOp) : Act SweepOp := do
  let o1 ← if o.out.isEmpty then sweepWork ft core b o else pure o
  for (x, i) in o1.out.zipIdx do
    modify fun m => m.modCore core fun c => { c with sweepRun := some { o1 with out := o1.out.drop i } }
    stashWrite ft (engineAgent b.asid (o.charge core)) core (b.winBase + x.1) x.2
  return { o1 with out := [], iter := o.iter + 1 }

/-- The operations of the queue, with those aside at the places that they keep in issue order (R424). (DEDUCED, log entry 107.) -/
def Core.sweepLine (c : Core) : List SweepOp := c.sweepAside.foldl (fun l o => insertBy (fun x y => decide (x.org.id ≤ y.org.id)) o l) c.sweepQ

/-- The operation that the sweep unit takes next: the first in that order whose block is on its core, or has exited (R363); those of a block that is away stand
aside (R424; DEDUCED, log entry 107). Accesses before it are performed (R215). -/
def Core.sweepNext (c : Core) : Option SweepOp :=
  c.sweepLine.find? fun o => match c.block o.org.blk with | some b => b.bst == .running || b.bst == .exited | none => true

/-- An operation leaves the queue or its place aside. -/
def Core.sweepTake (c : Core) (o : SweepOp) : Core :=
  { c with sweepQ := c.sweepQ.filter (fun x => x.org.id != o.org.id), sweepAside := c.sweepAside.filter fun x => x.org.id != o.org.id }

/-- SWEEP_OP_START: the next operation starts executing and frees its entry (R424). -/
def execSweepOpStart (core : Nat) (s : State) : Host.Outcome State Fault Refusal :=
  onM s fun _ m =>
    let c := m.core core
    match c.sweepRun, c.sweepNext with
    | none, some o =>
      match c.block o.org.blk with
      | none => m.setCore core (c.sweepTake o)
      | some b =>
        if m.live b.asid && (b.bst == .running || b.bst == .exited) && c.accsDone o.org.blk o.org.after then m.setCore core { c.sweepTake o with sweepRun := some o }
        else m
    | _, _ => m

/-- The engine's current iteration has performed some of its writes, and no fault keeps the rest from following: a pre-emption or a halt waits for it
(R163, R304). -/
def Dev.midIteration (m : Dev) (core asid : Nat) (o : SweepOp) : Bool :=
  !o.out.isEmpty && !m.suspended asid (.sweep core o.org.id) && !m.failed asid (o.charge core)

/-- The halt line of a context is raised, and its skid goes on. -/
def Dev.halting (m : Dev) (asid : Nat) : Bool := ((m.ctx asid).bind fun x => x.halt).any fun h => !h.skidded

/-- SWEEP_ITERATION: one iteration of the executing operation, or its fill waits or faults (R161, R163). -/
def execSweepIteration (core : Nat) (s : State) : Host.Outcome State Fault Refusal :=
  onM s fun ft m =>
    match (m.core core).sweepRun with
    | none => m
    | some o =>
      match m.block core o.org.blk with
      | none => m.modCore core fun c => { c with sweepRun := none }
      | some b =>
        if !(m.live b.asid || (m.halting b.asid && m.midIteration core b.asid o)) || m.suspended b.asid (.sweep core o.org.id) then m
        else
          match (sweepIter ft core b o).go m with
          | (.ok x, m1) => m1.modCore core fun c => { c with sweepRun := if x.total ≤ x.iter then none else some x }
          | (.error .wait, m1) => m1
          | (.error (.flt f), m1) => m1.charge b.asid (o.charge core) f (.sweep core o.org.id)

end Sys2Proof.Machine
end

