-- ==== Sys2Proof/Machine/Transfer.lean ====
section
/-! DEFINITION. Copies, batches and comet reads (R240 to R258): the words COPY, COMET, SEAL, WAITB (R356, R357, R409, R429), acceptance and
its checks (R245, R457), chunks (R241 to R244, R247, R253), bursts and handlers (R255, R256). -/

namespace Sys2Proof.Machine

open Sys2Proof

/-! ### Batches (R248, R249) -/

/-- A copy has not completed: it is running, queued, or held for its thread. -/
def Core.copyOpen (c : Core) (t : Thread) (id : Nat) : Bool :=
  c.copies.any (fun r => r.org.id == id) || c.xferQ.any (fun o => o.org.id == id) ||
    t.held.any fun h => match h with | .xfer o => o.org.id == id | _ => false

/-- The finished batches at the head of a thread's list give their tokens their values, in order (R248). -/
def Thread.popBatches (t : Thread) (c : Core) (l : List Batch) : Thread :=
  match l with
  | [] => { t with batches := [] }
  | b :: r =>
    if b.copies.any fun i => c.copyOpen t i then { t with batches := l }
    else (t.obtain b.pend [BitVec.ofNat 32 (0x80000000 + b.num % 2 ^ 24)]).popBatches c r

/-- A thread's batches are looked at again; a WAITB that they held may end (R248, R249). -/
def Dev.batchCheck (m : Dev) (core blk slot : Nat) : Dev :=
  let c := m.core core
  m.modThread core blk slot fun t =>
    let t1 := t.popBatches c t.batches
    if t1.st == .results then t1.settle else t1

/-- A batch is sealed (R248). -/
def Thread.sealBatch (t : Thread) (pend : Nat) (copies : List Nat) : Thread :=
  { t with nextBatch := t.nextBatch + 1, batches := t.batches ++ [{ num := t.nextBatch, copies := copies, pend := pend }] }

/-! ### The words -/

/-- A transfer word enters the queue, or is held for its member where the queue is full or operations issued earlier wait for it (R227, R246). -/
def Env.enqXfer (e : Env) (o : XferOp) (m : Dev) : Dev :=
  let c := m.core e.cu.core
  if c.xferQ.length < 256 && (c.heldFor .xfer).isEmpty then m.fresh.setCore e.cu.core { c with xferQ := c.xferQ ++ [o] }
  else e.mod m.fresh fun x => { x with held := x.held ++ [.xfer o] }

/-- The knot operand of a transfer word: none without one, or the fault of R65. -/
def xferKnot (e : Env) (m : Dev) (t : Thread) (f : TX) : Except Nat (Option Word) :=
  if f.mode.getLsbD 0 then
    match e.knot m (t.reg f.kn.toNat) with
    | .ok _ => .ok (some (t.reg f.kn.toNat))
    | .error x => .error x
  else .ok none

/-- COPY (R357). -/
def execCopy (c : Ctl) (f : TX) (s : State) : Host.Outcome State Fault Refusal :=
  word c s fun e t m =>
    match xferKnot e m t f with
    | .error x => e.fault m (Flt.plain x)
    | .ok kn =>
      let o : XferOp := { org := e.origin t m.nextId, comet := false, sh := t.pair f.shape.toNat, hd := t.pair f.hd.toNat, kn := kn, args := [], cid := 0, pend := 0, entry := m.nextId }
      e.mod (e.enqXfer o m) fun x => { x with unsealed := x.unsealed ++ [o.org.id] }

/-- COMET (R254, R356). -/
def execComet (c : Ctl) (f : TX) (s : State) : Host.Outcome State Fault Refusal :=
  word c s fun e t m =>
    let h := t.pair f.hd.toNat
    if e.blk.rec_.cres = 0 || t.comet.isSome then e.fault m (Flt.plain 0x10)
    else if h.extractLsb' 0 3 != 0 then e.fault m (Flt.plain 0x14)
    else
      match xferKnot e m t f with
      | .error x => e.fault m (Flt.plain x)
      | .ok kn =>
        let a := f.arg.toNat
        let id := m.nextId
        let o : XferOp :=
          { org := e.origin t id, comet := true, sh := t.pair f.shape.toNat, hd := h, kn := kn, args := [t.reg a, t.reg (a + 1), t.reg (a + 2), t.reg (a + 3)],
            cid := e.blk.cometCount, pend := id, entry := id }
        (e.mod (e.enqXfer o m) fun x => x.addPend id [f.tok.toNat]).modBlock e.cu.core e.cu.blk fun b =>
          { b with cometCount := (b.cometCount + 1) % 2 ^ 32 }

/-- A SEAL is held for the thread. -/
def HeldWord.isSeal : HeldWord → Bool
  | .seal _ _ => true
  | _ => false

/-- SEAL (R248, R409): held where it would leave 256 unfinished batches. -/
def execSeal (c : Ctl) (f : TX) (s : State) : Host.Outcome State Fault Refusal :=
  word c s fun e t m =>
    let id := m.nextId
    let m1 := e.mod m.fresh fun x => { x with unsealed := [] }.addPend id [f.tok.toNat]
    if 255 ≤ t.batches.length || t.held.any HeldWord.isSeal then
      e.mod m1 fun x => { x with held := x.held ++ [.seal id t.unsealed] }
    else (e.mod m1 fun x => x.sealBatch id t.unsealed).batchCheck e.cu.core e.cu.blk e.cu.slot

/-- WAITB (R249, R429): it takes effect as the member leaves the clause. -/
def execWaitb (c : Ctl) (f : TX) (s : State) : Host.Outcome State Fault Refusal :=
  regWord c s fun _ t => { t with waitB := some (match t.waitB with | some n => min n f.mode.toNat | none => f.mode.toNat) }

/-! ### Words held for a full queue (R227) -/

/-- A held word is accepted where there is room for it and its turn has come; a SEAL once 254 unfinished batches are left. -/
def Dev.acceptWord (m : Dev) (core blk slot : Nat) (t : Thread) (h : HeldWord) : Option Dev :=
  let c := m.core core
  match h with
  | .mat o => if c.matQ.length < 128 && c.turnFor .mat o.org.id then some (m.setCore core { c with matQ := c.matQ ++ [o] }) else none
  | .sweep o => if c.sweepQ.length < 64 && c.turnFor .sweep o.org.id then some (m.setCore core { c with sweepQ := c.sweepQ ++ [o] }) else none
  | .ply o => if c.plyQ.length < 64 && c.turnFor .ply o.org.id then some (m.setCore core { c with plyQ := c.plyQ ++ [o] }) else none
  | .xfer o => if c.xferQ.length < 256 && c.turnFor .xfer o.org.id then some (m.fresh.setCore core { c with xferQ := c.xferQ ++ [{ o with entry := m.nextId }] }) else none
  | .seal p l =>
    if t.batches.length < 255 && (t.held.find? HeldWord.isSeal) == some h then some (m.modThread core blk slot fun x => x.sealBatch p l) else none

/-- The first held word of a thread that can be is accepted, in program order for each queue (R227): the thread goes on once none is left. -/
def Dev.acceptHeld (m : Dev) (core blk slot : Nat) : Dev :=
  match m.block core blk with
  | none => m
  | some b =>
    let t := b.thread slot
    if !m.live b.asid || !(b.bst == .running || b.bst == .exited) then m
    else
      match t.held.findSome? fun h => (m.acceptWord core blk slot t h).map fun x => (h, x) with
      | none => m
      | some (h, m1) =>
        (m1.modThread core blk slot fun x =>
          let y := { x with held := x.held.erase h }
          if y.st == .results then y.settle else y).batchCheck core blk slot

/-- QUEUE_WORD_ACCEPT: an entry is free again: the thread's first held word is accepted, and what the block's stitch registers hold for a
full queue enters it (R227). -/
def execQueueWordAccept (core blk slot : Nat) (s : State) : Host.Outcome State Fault Refusal :=
  onM s fun _ m => (List.range 16).foldl (fun x k => x.retryBound core blk k) (m.acceptHeld core blk slot)

/-! ### Shape records (R240, R245) -/

/-- A record's fields (R240). (DEDUCED, log entry 40.) -/
def shapeOf (d : Nat → Nat) : Shape :=
  { base := bitsOf (d 0) 0 57, idx := bitsOf (d 1) 0 57, ey := bitsOf (d 2) 32 32, ex := bitsOf (d 2) 0 32, ox := bitsOf (d 3) 32 32,
    ez := bitsOf (d 3) 0 32, oz := bitsOf (d 4) 32 32, oy := bitsOf (d 4) 0 32, sy := bitsOf (d 5) 24 40, tx := bitsOf (d 5) 0 24,
    sz := bitsOf (d 6) 24 40, ty := bitsOf (d 6) 0 24, ifac := bitsOf (d 7) 40 7, hkind := bitsOf (d 7) 34 1 == 1, tkind := bitsOf (d 7) 33 1 == 1,
    dir := bitsOf (d 7) 32 1 == 1, mode := bitsOf (d 7) 28 3, elog := bitsOf (d 7) 24 3, tz := bitsOf (d 7) 0 24 }

/-- A reserved bit of a record is 1 (R240). -/
def shapeReserved (d : Nat → Nat) : Bool :=
  bitsOf (d 0) 57 7 != 0 || bitsOf (d 1) 57 7 != 0 || bitsOf (d 7) 47 17 != 0 || bitsOf (d 7) 35 5 != 0 || bitsOf (d 7) 31 1 != 0 || bitsOf (d 7) 27 1 != 0

/-- Bytes of an element. -/
def Shape.e (s : Shape) : Nat := 2 ^ s.elog

/-- Some tile extent is 0 (R245). -/
def Shape.empty (s : Shape) : Bool := s.tx = 0 || s.ty = 0 || s.tz = 0

/-- The transfer size (R253). -/
def Shape.size (s : Shape) : Nat := s.tx * s.ty * s.tz * s.e

/-- The checks 0x61 to 0x63 (R245). -/
def Shape.early (s : Shape) (comet : Bool) : Option Nat :=
  let wantDir : Option Bool := match s.mode with | 0 => none | 3 => some true | _ => some false
  if wantDir.any (fun d => d != s.dir) || (comet && (1 < s.mode || s.tkind || s.dir)) || (s.mode == 4 && (s.tkind || s.hkind)) then some 0x61
  else if (if s.mode == 2 || s.mode == 3 then s.ifac < 2 || 64 < s.ifac else s.ifac != 0) then some 0x62
  else if (if s.mode == 1 then s.idx = 0 || s.idx % 4 != 0 || s.oy != 0 else if s.mode == 4 then s.idx = 0 || s.idx % 8 != 0 else s.idx != 0) then some 0x63
  else none

/-- The checks 0x64 to 0x68 (R245). -/
def Shape.late (s : Shape) : Option Nat :=
  if 2 ^ 32 < s.ex * s.ey * s.ez then some 0x64
  else if s.ex < s.ox + s.tx || s.ez < s.oz + s.tz || (s.mode != 1 && s.ey < s.oy + s.ty) then some 0x65
  else if s.base % s.e != 0 || (s.tkind && 2 ^ 20 ≤ s.base) then some 0x66
  else if s.sy % s.e != 0 || s.sz % s.e != 0 then some 0x67
  else if s.dir && ((1 < s.ey && s.sy < s.ex * s.e) || (1 < s.ez && s.sz < s.ey * s.sy)) then some 0x68
  else none

/-- What the checks of a record find: a fault, an operation that is done at once, one that goes on. -/
inductive ShapeVerdict where
  | bad (f : Flt)
  | done
  | go
  deriving DecidableEq, Repr

/-- The checks of R245 and R457 in their order; 0x69 is made as the entry is read. The alignment check of R246 on a window destination comes last, and an empty
tile skips it (DESIGN CHOICE, log entry 103). -/
def shapeVerdict (ft : Features) (d : Nat → Nat) (hd : DWord) (comet : Bool) : ShapeVerdict :=
  let s := shapeOf d
  if shapeReserved d || 4 < s.elog || 4 < s.mode then .bad (Flt.shape 0x60)
  else if s.mode == 4 && !comet && !ft.has 1 then .bad (Flt.plain 0x13)
  else
    match s.early comet with
    | some c => .bad (Flt.shape c)
    | none =>
      if s.empty then .done
      else
        match s.late with
        | some c => .bad (Flt.shape c)
        | none =>
          if !comet && (hd.toNat % s.e != 0 || (s.mode == 4 && hd.toNat % 512 != 0)) then .bad (Flt.shape 0x6A)
          else if comet && s.tx * s.e % 64 != 0 then .bad (Flt.shape 0x6B)
          else if !comet && s.hkind && 2 ^ 20 ≤ hd.toNat then .bad (Flt.plain 0x14)
          else .go

/-- Reads a record with relaxed reads (R240): its doublewords. Of an address beyond the virtual space that is misaligned too, the protection fault comes
first (DESIGN CHOICE, log entry 114). -/
def readShape (ft : Features) (ag : Agent) (core asid va : Nat) : Act (Nat → Nat) := do
  if 2 ^ 57 ≤ va then actFault (transFlt 0x10 va .read)
  if va % 64 != 0 then actFault { Flt.plain 0x14 with va := BitVec.ofNat 64 va }
  let l ← engReadMany ft ag core asid va 64 8
  return fun i => ofBytes ((l.drop (8 * i)).take 8)

/-! ### Copies -/

/-- The batch number of a copy, all ones where it is not sealed (R299). -/
def Dev.batchOf (m : Dev) (core : Nat) (o : Origin) : Word :=
  match (m.thread core o.blk o.slot).bind fun t => t.batches.find? fun b => b.copies.contains o.id with
  | some b => BitVec.ofNat 32 b.num
  | none => 0xFFFFFFFF

/-- The charge of a copy's faults (R299). -/
def Dev.copyCharge (m : Dev) (core : Nat) (o : Origin) (chunk : Nat) : Charge := o.charge .copy core (BitVec.ofNat 32 chunk) (m.batchOf core o)

/-- Elements of the packed stream, padding included (R243). -/
def Shape.packed (s : Shape) : Nat :=
  if s.mode == 2 || s.mode == 3 then (s.tz + s.ifac - 1) / s.ifac * s.ifac * s.tx * s.ty else s.tx * s.ty * s.tz

/-- The tile position of packed element `p`: none for padding (R241, R243). -/
def Shape.pos (s : Shape) (p : Nat) : Option (Nat × Nat × Nat) :=
  if s.mode == 2 || s.mode == 3 then
    let f := s.ifac
    let z := p / f / s.tx / s.ty * f + p % f
    if s.tz ≤ z then none else some (p / f % s.tx, p / f / s.tx % s.ty, z)
  else some (p % s.tx, p / s.tx % s.ty, p / s.tx / s.ty)

/-- Chunks of 4,096 bytes of the packed stream (R247). -/
def Shape.chunks (s : Shape) : Nat := (s.packed * s.e + 4095) / 4096

/-- Packed elements of a chunk, in the order in which they move: where the bytes that a copy reads and writes overlap, R247 leaves the values open (DESIGN CHOICE,
log entry 124). -/
def Shape.chunkElems (s : Shape) (j : Nat) : List Nat :=
  let per := 4096 / s.e
  (List.range (min per (s.packed - j * per))).map fun i => j * per + i

/-- Bytes of the tile that a chunk carries (R253). -/
def Shape.share (s : Shape) (j : Nat) : Nat := ((s.chunkElems j).filter fun p => (s.pos p).isSome).length * s.e

/-- The row of the tensor side that tile row `j` names: in gather mode the index-list entry, checked (R242, R245). (DEDUCED, log entry 76.) -/
def rowIndex (ft : Features) (ag : Agent) (core asid : Nat) (s : Shape) (j : Nat) : Act Nat := do
  if s.mode == 1 then
    let l ← engRead ft ag core asid (s.idx + 4 * j) 4
    let y := ofBytes l
    if s.ey ≤ y then actFault { Flt.shape 0x69 with va := BitVec.ofNat 64 (s.idx + 4 * j) }
    return y
  else return s.oy + j

/-- Reads an element on one side: the window by offset, or memory by virtual address (R241). -/
def sideRead (ft : Features) (ag : Agent) (core : Nat) (b : Block) (stash : Bool) (a n : Nat) : Act (List Byte) := do
  if stash then
    if b.winSize < a + n then actFault (Flt.plain 0x14)
    stashRead ft ag core (b.winBase + a) n
  else engReadMany ft ag core b.asid a n (min n 8)

/-- Writes memory for the copy engine: its bytes go to their home, and the core's L1 follows (R247, R253). (DEDUCED, log entry 39.)
(DEDUCED, log entry 111.) -/
def copyStore (ft : Features) (ag : Agent) (core asid va : Nat) (l : List Byte) : Act Unit := do
  if 2 ^ 57 ≤ va then actFault (transFlt 0x10 va .write)
  modify fun m => m.freeRequests core ag.requester
  awaitStores core ag.requester va l.length
  let m ← get
  match (m.core core).route asid va l.length with
  | some x => atVa va (stashWrite ft ag core x l)
  | none =>
    let pg ← translate ft core asid va .write
    recallOwn core asid va l.length
    asMiss ft ag core pg true true do
      let _ ← homeAccess ft ag pg (BitVec.ofNat 64 va) l.length (.store l)
      modify fun m => m.modCore core fun c => c.followL1 pg l

/-- Writes an element on one side. -/
def sideWrite (ft : Features) (ag : Agent) (core : Nat) (b : Block) (stash : Bool) (a : Nat) (l : List Byte) : Act Unit := do
  if stash then
    if b.winSize < a + l.length then actFault { Flt.plain 0x14 with wr := true }
    stashWrite ft ag core (b.winBase + a) l
  else
    for i in List.range ((l.length + 7) / 8) do
      copyStore ft ag core b.asid (a + 8 * i) ((l.drop (8 * i)).take 8)

/-- The tensor-side address of a tile position with its row (R241). -/
def Shape.tensorAt (s : Shape) (i y l : Nat) : Nat := s.base + (s.ox + i) * s.e + y * s.sy + (s.oz + l) * s.sz

/-- The bytes of an element that a read refuses as poisoned, as they stand; none where they cannot be carried. -/
def poisonedBytes (ft : Features) (core : Nat) (b : Block) (stash : Bool) (a n : Nat) : Act (List Byte) := do
  let m ← get
  match if stash then some (b.winBase + a) else (m.core core).route b.asid a n with
  | some x => return mreadBytes (m.core core).stash x n
  | none =>
    let pg ← translate ft core b.asid a .read
    return m.homeBytes pg.key pg.loc n

/-- A copy reads an element and carries poisoned data on: the bytes, and whether they are poisoned (R327). -/
def carryRead (ft : Features) (ag : Agent) (core : Nat) (b : Block) (stash : Bool) (a n : Nat) : Act (List Byte × Bool) := do
  let m ← get
  match (sideRead ft ag core b stash a n).go m with
  | (.ok l, m1) =>
    set m1
    return (l, false)
  | (.error (.flt f), m1) =>
    set m1
    if f.cause != 0x1C then actFault f
    let l ← poisonedBytes ft core b stash a n
    return (l, true)
  | (.error .wait, m1) =>
    set m1
    actWait

/-- The destination bytes of poisoned data are marked poisoned (R327). -/
def markPoison (ft : Features) (core : Nat) (b : Block) (stash : Bool) (a n : Nat) (bad : Bool) : Act Unit := do
  if bad then
    let m ← get
    let base ← match if stash then some (b.winBase + a) else (m.core core).route b.asid a n with
      | some x => pure (2 ^ 60 + core * 2 ^ 20 + x)
      | none => do
        let pg ← translate ft core b.asid a .write
        pure pg.loc
    modify fun m => { m with poisoned := m.poisoned ++ (List.range n).map fun i => base + i }

/-- The bytes of one packed element read from the tensor side; zeros for padding. (DEDUCED, log entry 76.) -/
def packedElem (ft : Features) (ag : Agent) (core : Nat) (b : Block) (s : Shape) (p : Nat) : Act (List Byte × Bool) := do
  match s.pos p with
  | none => return (List.replicate s.e 0, false)
  | some (i, j, l) =>
    let y ← rowIndex ft ag core b.asid s j
    carryRead ft ag core b s.tkind (s.tensorAt i y l) s.e

/-- One block of compress mode: packed, written, and its block-table entry after it (R190, R244). -/
def compressBlock (ft : Features) (ag : Agent) (core : Nat) (b : Block) (s : Shape) (hd blk : Nat) : Act Unit := do
  let per := 512 / s.e
  let mut l : List Byte := []
  let mut bad : Bool := false
  for p in List.range per do
    if blk * per + p < s.packed then
      let (v, x) ← packedElem ft ag core b s (blk * per + p)
      l := l ++ v
      bad := bad || x
  l := l ++ List.replicate (512 - l.length) 0
  let need := blockNeed l
  let va := hd + 512 * blk
  let pg ← translate ft core b.asid va .write
  sideWrite ft ag core b false va (packBlock need l)
  markPoison ft core b false va (packBlock need l).length bad
  sideWrite ft ag core b false (s.idx + 8 * blk) (toBytes 8 (pg.loc % 2 ^ 52 / 128 * 128 + need))

/-- A chunk of a copy moves its elements (R247). (DESIGN CHOICE, log entry 124.) -/
def runChunk (ft : Features) (core : Nat) (b : Block) (r : CopyRun) (j : Nat) (ch : Charge) : Act Unit := do
  let s := r.sh
  let ag := engineAgent b.asid ch
  if s.mode == 4 then
    for i in List.range 8 do
      if (8 * j + i) * 512 < s.packed * s.e then compressBlock ft ag core b s r.hd (8 * j + i)
  else
    for p in s.chunkElems j do
      if s.dir then
        match s.pos p with
        | none => pure ()
        | some (i, y, l) =>
          let (v, bad) ← carryRead ft ag core b s.hkind (r.hd + p * s.e) s.e
          sideWrite ft ag core b s.tkind (s.tensorAt i (s.oy + y) l) v
          markPoison ft core b s.tkind (s.tensorAt i (s.oy + y) l) s.e bad
      else
        let (v, bad) ← packedElem ft ag core b s p
        sideWrite ft ag core b s.hkind (r.hd + p * s.e) v
        markPoison ft core b s.hkind (r.hd + p * s.e) s.e bad

/-- The bytes [va, va + n), a multiple of 8, lie in the core's stash by virtual address. -/
def Core.coversRun (c : Core) (asid va n : Nat) : Bool := (List.range (n / 8)).all fun i => (c.route asid (va + 8 * i) 8).isSome

/-- Every byte that a copy writes lies in the knot core's stash (R253); in compress mode the packed blocks, taken at their whole length, and the table
entries (R244). (DEDUCED, log entry 92.) -/
def Core.copyInbound (c : Core) (asid : Nat) (s : Shape) (hd : Nat) : Bool :=
  if s.mode == 4 then
    let n := (s.packed * s.e + 511) / 512
    c.coversRun asid hd (512 * n) && c.coversRun asid s.idx (8 * n)
  else if s.dir then
    s.tkind || (List.range s.packed).all fun p =>
      match s.pos p with
      | some (i, j, l) => (c.route asid (s.tensorAt i (s.oy + j) l) s.e).isSome
      | none => true
  else s.hkind || (List.range s.packed).all fun p => (c.route asid (hd + p * s.e) s.e).isSome

/-- The entry that the transfer queue gives up next: the first whose block is on its core or has exited (R246, R250). (DEDUCED, log entry 38.) -/
def Core.xferNext (c : Core) : Option XferOp :=
  c.xferQ.find? fun o => match c.block o.org.blk with | some b => b.bst == .running || b.bst == .exited | none => true

/-- The operation leaves the queue. -/
def Core.xferTake (c : Core) (o : XferOp) : Core := { c with xferQ := c.xferQ.filter fun x => x.org.id != o.org.id }

/-- The copy engine accepts a copy: the record is read and checked, the knot charged (R240, R245, R253). -/
def acceptCopy (ft : Features) (core : Nat) (b : Block) (o : XferOp) (ch : Charge) : Act Unit := do
  let d ← readShape ft (engineAgent b.asid ch) core b.asid o.sh.toNat
  match shapeVerdict ft d o.hd false with
  | .bad f => actFault f
  | .done => modify fun m => (m.modCore core fun c => c.xferTake o).batchCheck core b.id o.org.slot
  | .go =>
    let s := shapeOf d
    let m ← get
    let inb := (m.core core).copyInbound b.asid s o.hd.toNat
    let kn := o.kn.map fun v => b.winBase + knotOff v
    match kn with
    | some x =>
      match (m.core core).knotCharge x s.size inb with
      | .ok c => set (m.setCore core c)
      | .error e => actFault (Flt.plain e)
    | none => pure ()
    modify fun m => m.modCore core fun c =>
      { c.xferTake o with copies := c.copies ++ [{ org := o.org, sh := s, hd := o.hd.toNat, kn := kn, inbound := inb, chunks := s.chunks, left := List.range s.chunks }] }

/-- COPY_ACCEPT: the copy engine takes the transfer queue's next entry, a copy (R246). -/
def execCopyAccept (core : Nat) (s : State) : Host.Outcome State Fault Refusal :=
  onM s fun ft m =>
    match (m.core core).xferNext with
    | none => m
    | some o =>
      match m.block core o.org.blk with
      | none => m.modCore core fun c => c.xferTake o
      | some b =>
        if o.comet || !m.live b.asid || !(m.core core).accessesDone o.org.blk o.org.after || m.suspended b.asid (.xfer core o.org.id) then m
        else
          match (acceptCopy ft core b o (m.copyCharge core o.org 0)).go m with
          | (.ok _, m1) => m1
          | (.error .wait, m1) => m1
          | (.error (.flt f), m1) => m1.charge b.asid (m.copyCharge core o.org 0) f (.xfer core o.org.id)

/-- A chunk that has been performed: its share leaves the knot's count, and with the last chunk the copy is complete (R247, R248, R253).
(DEDUCED, log entry 39.) (DEDUCED, log entry 111.) -/
def Dev.chunkDone (m : Dev) (core : Nat) (b : Block) (r : CopyRun) (j : Nat) : Dev :=
  let left := r.left.filter (· != j)
  let m1 := m.modCore core fun c =>
    if left.isEmpty then { c with copies := c.copies.filter fun x => x.org.id != r.org.id }
    else { c with copies := c.copies.map fun x => if x.org.id == r.org.id then { x with left := left } else x }
  let m2 := match r.kn with
    | none => m1
    | some x =>
      match (m1.core core).knotPay x (r.sh.share j) r.inbound with
      | .ok c => m1.setCore core c
      | .error e => m1.charge b.asid (m.copyCharge core r.org j) (Flt.plain e) (.access 0 0)
  m2.batchCheck core b.id r.org.slot

/-- A pre-emption of the block has been requested and is still to come: a block whose ordinary threads have all exited is not pre-empted (R308, R363). -/
def Block.stopping (b : Block) : Bool := b.asked && b.bst == .running && !b.over

/-- Copies and bursts of the block may still move: it is on its core, has exited, or is within the skid of its pre-emption, the memory bound since it was asked
to stop has not expired, and its context runs or is within the skid of its halt (R304, R307). -/
def Dev.moving (m : Dev) (b : Block) : Bool :=
  let expired := b.skid == some 0 && (b.bst == .preempted || b.stopping || m.halting b.asid)
  (b.bst != .preempted || b.skid.isSome) && !expired && (m.live b.asid || m.halting b.asid)

/-- COPY_CHUNK_COMPLETE: one chunk of a copy is performed, or faults and is performed again after replay (R247). (DESIGN CHOICE, log entry 27.) -/
def execCopyChunkComplete (core copy chunk : Nat) (s : State) : Host.Outcome State Fault Refusal :=
  onM s fun ft m =>
    match (m.core core).copies.find? fun r => r.org.id == copy with
    | none => m
    | some r =>
      match m.block core r.org.blk with
      | none => m
      | some b =>
        if !r.left.contains chunk || !m.moving b || m.suspended b.asid (.chunk core copy chunk) || m.failed b.asid (m.copyCharge core r.org chunk) then m
        else
          match (runChunk ft core b r chunk (m.copyCharge core r.org chunk)).go m with
          | (.ok _, m1) => m1.chunkDone core b r chunk
          | (.error .wait, m1) => m1
          | (.error (.flt f), m1) => m1.charge b.asid (m.copyCharge core r.org chunk) f (.chunk core copy chunk)

/-! ### Comet reads -/

/-- The charge of a comet read's faults (R299). -/
def cometCharge (core : Nat) (o : Origin) (cid burst : Nat) : Charge := o.charge .comet core (BitVec.ofNat 32 cid) (BitVec.ofNat 32 burst)

/-- The comet path accepts a read: the record is read and checked; an empty tile has its tail event at once (R245, R257). -/
def acceptComet (ft : Features) (core : Nat) (b : Block) (o : XferOp) : Act Unit := do
  let d ← readShape ft (engineAgent b.asid (cometCharge core o.org o.cid 0)) core b.asid o.sh.toNat
  let s := shapeOf d
  let run (n : Nat) : CometRun :=
    { org := o.org, sh := s, hd := o.hd, args := o.args, cid := o.cid, pend := o.pend, kn := o.kn.map fun v => b.winBase + knotOff v, entry := o.entry, bursts := n,
      toRequest := List.range n, inFlight := [], landed := [], landings := 0, leaves := [], started := 0, ended := 0, replayed := [], ending := [] }
  match shapeVerdict ft d o.hd true with
  | .bad f => actFault f
  | .done => modify fun m => ((m.modCore core fun c => c.xferTake o).tailEvent core (run 0)).modCore core fun c => c.blockExit b.id
  | .go => modify fun m => m.modCore core fun c => { c.xferTake o with comets := c.comets ++ [run (s.size / 64)] }

/-- COMET_ACCEPT: the comet path takes the transfer queue's next entry, a comet read (R246). -/
def execCometAccept (core : Nat) (s : State) : Host.Outcome State Fault Refusal :=
  onM s fun ft m =>
    match (m.core core).xferNext with
    | none => m
    | some o =>
      match m.block core o.org.blk with
      | none => m.modCore core fun c => c.xferTake o
      | some b =>
        if !o.comet || !m.live b.asid || !(m.core core).accessesDone o.org.blk o.org.after || m.suspended b.asid (.xfer core o.org.id) then m
        else
          match (acceptComet ft core b o).go m with
          | (.ok _, m1) => m1
          | (.error .wait, m1) => m1
          | (.error (.flt f), m1) => m1.charge b.asid (cometCharge core o.org o.cid 0) f (.xfer core o.org.id)

/-- Changes a comet read of a core. -/
def Core.modComet (c : Core) (id : Nat) (f : CometRun → CometRun) : Core :=
  { c with comets := c.comets.map fun r => if r.org.id == id then f r else r }

/-- A burst in flight has been answered with a fault: its outstanding request is free again (R176). -/
def Core.suspendBurst (c : Core) (id x : Nat) : Core := c.modComet id fun r => { r with faulted := x :: r.faulted }

/-- Entries of the landing buffer in use (R255). -/
def Core.landing (c : Core) : Nat := (c.comets.map fun r => r.inFlight.length + r.landed.length).sum

/-- The comet read that is served next: in rotation, the first after the one served last (R255). -/
def Dev.cometNext (m : Dev) (core : Nat) : Option CometRun :=
  let c := m.core core
  let waits (r : CometRun) : Bool :=
    !r.toRequest.isEmpty && (match c.block r.org.blk with | some b => m.live b.asid && !b.stopping && (b.bst == .running || b.bst == .exited) | none => false)
  let least (l : List CometRun) : Option CometRun :=
    l.foldl (fun (o : Option CometRun) r => match o with | some x => if r.org.id < x.org.id then some r else o | none => some r) none
  let l := c.comets.filter waits
  (least (l.filter fun r => c.cometTurn < r.org.id)).or (least l)

/-- The address of a burst's first byte (R255): 64 bytes within one row of the tile. -/
def burstAt (ft : Features) (core : Nat) (b : Block) (r : CometRun) (x : Nat) : Act Nat := do
  let s := r.sh
  let p := 64 * x / s.e
  let y ← rowIndex ft (engineAgent b.asid (cometCharge core r.org r.cid x)) core b.asid s (p / s.tx % s.ty)
  return s.tensorAt (p % s.tx) y (p / s.tx / s.ty)

/-- A burst as it is requested: its address, and the leaves of its first and last element, where no skein covers them (R262). -/
def burstAim (ft : Features) (core : Nat) (b : Block) (r : CometRun) (x : Nat) : Act (List (Nat × Nat × TlbEntry)) := do
  let va ← burstAt ft core b r x
  let w := min r.sh.e 8
  for a in [va, va + 64 - w] do
    let m ← get
    if ((m.core core).route b.asid a w).isNone then
      let _ ← translate ft core b.asid a .read
  let m ← get
  return [va, va + 64 - w].filterMap fun a => ((m.core core).tlbFind b.asid a).map fun l => (x, va, l.entry b.asid)

/-- COMET_BURST_REQUEST: the next burst of the read whose turn it is is requested, with an entry of the landing buffer and an outstanding request, and with
the translation that holds now (R255); a request that meets a fault, a page that is migrating among them, takes it (R262). -/
def execCometBurstRequest (core comet : Nat) (s : State) : Host.Outcome State Fault Refusal :=
  onM s fun ft m =>
    let c := m.core core
    match m.cometNext core with
    | none => m
    | some r =>
      match r.toRequest, c.block r.org.blk with
      | x :: q, some b =>
        if r.org.id == comet && c.landing < 1024 && c.requests < 1024 then
          let go (m : Dev) (l : List (Nat × Nat × TlbEntry)) : Dev := m.modCore core fun c =>
            { c.modComet comet fun r =>
                { r with toRequest := q, inFlight := r.inFlight ++ [x], leaves := r.leaves.filter (fun e => e.1 != x) ++ l } with cometTurn := comet }
          match (burstAim ft core b r x).go m with
          | (.ok l, m1) => go m1 l
          | (.error .wait, m1) => m1
          | (.error (.flt f), m1) => ((go m1 []).modCore core fun c => c.suspendBurst comet x).charge b.asid (cometCharge core r.org r.cid x) f (.burst core comet x)
        else m
      | _, _ => m

/-- The words of memory that [loc, loc + n) touches. -/
def wordsAt (loc n : Nat) : List Nat := (List.range ((loc % 4 + n + 3) / 4)).map fun i => (loc / 4 + i) * 4

/-- A burst, or the part of it on one page, asks a home slice: L1 and the slice of the core's die lack bytes of it. -/
def Dev.partAsks (m : Dev) (ft : Features) (core : Nat) (p : Page × Nat) : Bool :=
  !(p.1.cached && (((m.core core).l1Bytes p.1.loc p.2).isSome || (m.farBytes ft core p.1 p.2).isSome))

/-- The part makes its burst a miss: the slice lacks a sector of it that no stash answers for (R187). -/
def Dev.partMisses (m : Dev) (p : Page × Nat) : Bool :=
  match p.1.comp with
  | some (e, _) => (sectorsAt (m.compSlot e).1 (((m.compSlot e).2.1 + 1) * 128)).any m.lacksSector
  | none => (wordsAt p.1.loc p.2).any fun a => ((m.holders a 4).filter fun h => h.word.owner).isEmpty && m.lacksSector (a / 32)

/-- A burst is one request, in parts where it crosses a page: it is one miss at most (R187), and the alias detector sees it once (R183, R184). `m0` is the machine
that the request met. -/
def Dev.burstSeen (m0 : Dev) (ft : Features) (ag : Agent) (core va : Nat) (parts : List (Page × Nat)) (m : Dev) : Dev :=
  let ps := parts.filter fun p => m0.partAsks ft core p
  let first := ps.find? m0.partMisses
  let m1 := ps.foldl (fun (y : Dev) p => y.touchLine ft { p.1 with hen := p.1.hen && first == some p } (wordsAt p.1.loc p.2)) m
  match ps.findSome? fun p => (m0.aliasMet p.1 p.2).map fun old => (p.1, old) with
  | some (pg, old) => m1.aliasSees ft ag pg va false (some old)
  | none => m1

/-- The parts of the run of 64 bytes from `va` on that lie on the pages of a burst's leaves. -/
def burstParts (asid va : Nat) (ls : List TlbEntry) : List (Page × Nat) :=
  let at_ (a : Nat) : Option TlbEntry := ls.find? fun e => e.page == a / 2 ^ e.log
  let n (a : Nat) (e : TlbEntry) : Nat := min (va + 64 - a) (2 ^ e.log - a % 2 ^ e.log)
  match at_ va with
  | some e =>
    (e.leaf.pageOf asid va, n va e) ::
      (match at_ (va + n va e) with
        | some f => if n va e < 64 then [(f.leaf.pageOf asid (va + n va e), n (va + n va e) f)] else []
        | none => [])
  | none => []

/-- The grains that a part touches, each as the page of a request for it (R180). -/
def grainsOf (p : Page × Nat) : List Page :=
  let g := grainSize p.1.cg
  if p.1.cc != 2 then []
  else (List.range ((p.1.loc + p.2 - 1) / g - p.1.loc / g + 1)).map fun i => { p.1 with loc := max p.1.loc ((p.1.loc / g + i) * g) }

/-- A burst's bytes: from the page that its request was translated to (R262), else as the translation stands; through the skeins where they cover them. -/
def burstRead (ft : Features) (core : Nat) (b : Block) (r : CometRun) (x : Nat) : Act (List Byte) := do
  let s := r.sh
  let ag := engineAgent b.asid (cometCharge core r.org r.cid x)
  let w := min s.e 8
  match r.leaves.find? fun e => e.1 == x with
  | none =>
    let va ← burstAt ft core b r x
    engReadMany ft ag core b.asid va 64 w
  | some (_, va, _) =>
    awaitStores core ag.requester va 64
    let m0 ← get
    let ls := (r.leaves.filter fun e => e.1 == x).map fun e => e.2.2
    let parts := burstParts b.asid va ls
    atHome ft ag ((parts.filter fun p => m0.partAsks ft core p).flatMap grainsOf) true do
      let mut out : List Byte := []
      for i in List.range (64 / w) do
        let a := va + w * i
        let m ← get
        let l ← match (m.core core).route b.asid a w, ls.find? (fun e => e.page == a / 2 ^ e.log) with
          | none, some e => do
            recallOwn core b.asid a w
            coreLoad ft ag core { e.leaf.pageOf b.asid a with seen := true } (BitVec.ofNat 64 a) w true
          | _, _ => engRead ft ag core b.asid a w
        out := out ++ l
      modify (m0.burstSeen ft ag core va parts)
      return out

/-- The landed burst of a block that landed first: its read, burst and data. -/
def Core.firstLanded (c : Core) (blk : Nat) : Option (CometRun × Nat × List Byte) :=
  let all := (c.comets.filter fun r => r.org.blk == blk).flatMap fun r => r.landed.map fun (x, n, l) => (n, r, x, l)
  (all.foldl (fun (best : Option (Nat × CometRun × Nat × List Byte)) e =>
    match best with
    | some b => if e.1 < b.1 then some e else some b
    | none => some e) none).map fun (_, r, x, l) => (r, x, l)

/-- The lowest free slot of a block's comet reserve (R256). -/
def Block.freeReserve (b : Block) : Option Nat :=
  ((List.range b.rec_.cres).map fun i => 2048 - b.rec_.cres + i).find? fun s => (b.thread s).st == .free || (b.thread s).st == .exited

/-- A comet thread as it starts (R256). -/
def cometThread (r : CometRun) (x : Nat) (l : List Byte) : Thread :=
  let p := 64 * x / r.sh.e
  let cst : Nat := (if r.replayed.contains x then 1 else 0) + if x + 1 = r.bursts then 2 else 0
  { Fresh.thread with
    regs := ((segWords l).zipIdx ++ r.args.zipIdx 16).foldl (fun g (w, i) => mput 0 g i w) [], pc := r.hd, st := .ready
    comet := some
      { cid := BitVec.ofNat 32 r.cid, cbi := BitVec.ofNat 32 x, cx := BitVec.ofNat 32 (p % r.sh.tx), cy := BitVec.ofNat 32 (p / r.sh.tx % r.sh.ty),
        cz := BitVec.ofNat 32 (p / r.sh.tx / r.sh.ty), cst := BitVec.ofNat 32 cst, read := r.org.id } }

/-- The block's first landed burst starts a comet thread where a slot of the reserve is free (R256). -/
def Core.startHandler (c : Core) (blk : Nat) : Core :=
  match c.block blk, c.firstLanded blk with
  | some b, some (r, x, l) =>
    match b.freeReserve with
    | some s =>
      (c.modComet r.org.id fun q => { q with landed := q.landed.filter (fun y => y.1 != x), started := q.started + 1 }).modBlock blk fun y =>
        y.modThread s fun _ => cometThread r x l
    | none => c
  | _, _ => c

/-- The landed bursts of a block that is being pre-empted: those that obtain a free slot of the reserve become comet threads, the others are
dropped and are requested again (R258); each landing counts as one (DESIGN CHOICE, log entry 117). -/
def Core.settleLanded (c : Core) (blk : Nat) : Core :=
  let c1 := c.comets.foldl (fun x r => if r.org.blk == blk then r.landed.foldl (fun y _ => y.startHandler blk) x else x) c
  { c1 with comets := c1.comets.map fun r =>
      if r.org.blk == blk then { r with toRequest := sortBy (fun a b => decide (a ≤ b)) (r.toRequest ++ r.landed.map (·.1)), landed := [] } else r }

/-- COMET_BURST_LAND: a requested burst's data lands, or its page faults (R255, R258). (DESIGN CHOICE, log entry 117.) -/
def execCometBurstLand (core comet burst : Nat) (s : State) : Host.Outcome State Fault Refusal :=
  onM s fun ft m =>
    match (m.core core).comets.find? fun r => r.org.id == comet with
    | none => m
    | some r =>
      match m.block core r.org.blk with
      | none => m
      | some b =>
        if !r.inFlight.contains burst || !m.moving b || m.suspended b.asid (.burst core comet burst) || m.failed b.asid (cometCharge core r.org r.cid burst) then m
        else
          match (burstRead ft core b r burst).go m with
          | (.ok l, m1) =>
            m1.fresh.modCore core fun c =>
              let c1 := c.modComet comet fun r =>
                { r with inFlight := r.inFlight.filter (· != burst), leaves := r.leaves.filter (fun e => e.1 != burst), landed := r.landed ++ [(burst, m1.nextId, l)], landings := r.landings + 1 }
              if b.bst == .preempted then c1.settleLanded b.id else c1
          | (.error .wait, m1) => m1
          | (.error (.flt f), m1) => (m1.modCore core fun c => c.suspendBurst comet burst).charge b.asid (cometCharge core r.org r.cid burst) f (.burst core comet burst)

/-- COMET_THREAD_START (R256). -/
def execCometThreadStart (core blk : Nat) (s : State) : Host.Outcome State Fault Refusal :=
  onM s fun _ m =>
    match m.block core blk with
    | some b => if m.live b.asid && b.bst == .running then m.modCore core fun c => c.startHandler blk else m
    | none => m

end Sys2Proof.Machine
end

