-- ==== Sys2Proof/Machine/Prefetch.lean ====
section
/-! DEFINITION. Prefetch hints: PREF and PREF.list (R193, R259, R403 to R405). They never fault and change no value. -/

namespace Sys2Proof.Machine

open Sys2Proof

/-- A dropped hint is counted (R193). -/
def Dev.countDrop (m : Dev) (asid : Nat) : Dev := m.modCtx asid fun c => { c with dropped := min 0xFFFFFFFF (c.dropped + 1) }

/-- The hint's scope does not reach the page's home (R403). -/
def Dev.beyondScope (m : Dev) (ft : Features) (core : Nat) (pg : Page) (scope : BitVec 2) : Bool :=
  let far := pg.comp.isSome || !m.isLocal pg.loc
  match scope.toNat with
  | 3 => false
  | 2 => far
  | _ => far || m.dieOfLoc ft pg.loc != ft.dieOf core

/-- The agent of a prefetch hint: its requests are its own, and no fault is charged to it. -/
def prefAgent (core asid id : Nat) : Agent := { code := core, asid := asid, charge := none, hint := id + 1 }

/-- A hint that faults is dropped (R193). -/
def asHint (a : Act Bool) : Act Bool :=
  tryCatch a fun e => match e with
    | .flt _ => return false
    | .wait => throw .wait

/-- The line view of one address comes into L2, and into L1 where wanted, with the hint's marks; false where the hint is dropped (R403). It asks for every grain of
which it takes some, and each is given back first (R179, R180). Of a compressed page the whole slot is read, and L1 holds no line (DEDUCED, log entry 43).
(DESIGN CHOICE, log entry 90.) -/
def prefPlace (ft : Features) (ag : Agent) (core : Nat) (pg : Page) (va hint : Nat) (l1 : Bool) : Act Bool := do
  let m ← get
  match pg.comp with
  | some (e, _) =>
    if (m.compCause e).isSome then return false
    let (slot, size, _) := m.compSlot e
    modify fun x => (List.range (size + 1)).foldl (fun (y : Dev) i => y.markL2 (slot / 128 + i) hint)
      ((x.touchLine ft pg []).aliasSees ft ag pg va false (m.aliasMet pg 128))
    return true
  | none =>
    let line : Page := { pg with loc := pg.loc / 128 * 128 }
    snoopHost line.loc
    atHome ft ag (if pg.cc == 2 then grainsOf (line, 128) else [line]) l1 do
      if pg.cc == 2 then
        regrain line
        for p in grainsOf (line, 128) do
          modify fun m => m.giveBack (p.loc / grainSize p.cg * grainSize p.cg) (grainSize p.cg) core false
      modify fun m =>
        let m1 := ((m.touchL2 ft line 128).aliasFire ft ag line (BitVec.ofNat 64 va) false (m.aliasOld line 128)).markL2 (pg.loc / 128) hint
        if l1 then ((List.range 4).foldl (fun x i => x.fillL1 core { line with loc := line.loc + 32 * i } false) m1).modCore core fun c => c.markL1 (pg.loc / 128) hint
        else m1
    return true

/-- The line of one address is fetched into L2, and into L1 where wanted; false where the hint is dropped: by its scope, for want of an outstanding request
(R193, R403), or for memory behind a lost port or link (DESIGN CHOICE, log entry 90). It waits while its home refuses it (R180). -/
def prefFetch (ft : Features) (ag : Agent) (core asid va : Nat) (scope : BitVec 2) (hint : Nat) (l1 : Bool) : Act Bool := do
  if 2 ^ 57 ≤ va then return false
  let pg ← translate ft core asid va .read
  modify fun m => m.freeRequests core ag.requester
  let m ← get
  let there := match pg.comp with | some (e, _) => e | none => pg.loc
  if m.beyondScope ft core pg scope || 1024 ≤ (m.core core).requests || !m.linkUp ft there then return false
  withRequests core ag.requester 1 (prefPlace ft ag core pg va hint l1)

/-- Lines of 128 bytes that a run of addresses touches, each by an address in it. -/
def linesOf (va n : Nat) : List Nat := (List.range ((va + n + 127) / 128 - va / 128)).map fun i => max va ((va / 128 + i) * 128)

/-- A hint touches the segment that covers a stash byte: dropped where its fill would fault, or finds no outstanding request (R193, R404). -/
def prefSegment (ft : Features) (ag : Agent) (core x : Nat) : Act Bool := do
  let m ← get
  match (m.core core).cover x with
  | none => return true
  | some (k, s) =>
    match mget none (m.core core).skeins k with
    | none => return true
    | some e =>
      if (m.seg core k s).st != .unfilled then return true
      let ws ← fillWords ft core e s
      modify fun m => m.freeRequests core ag.requester
      let m ← get
      if e.mode != 2 && 1024 < (m.core core).requests + fillLines ws then return false
      let r ← tryCatch (do touchSeg ft ag core k s false; return true) fun st => match st with
        | .flt f => throw (.flt f)
        | .wait => return false
      let m ← get
      if r || (m.seg core k s).st == .filling then return true
      actWait

/-- Every step of a list is made; false at the first that is dropped. -/
def prefAll (l : List Nat) (f : Nat → Act Bool) : Act Bool := do
  for x in l do
    let ok ← f x
    if !ok then return false
  return true

/-- A row of a PREF.list at a virtual address (R259, R404): fetched into its target; false where it is dropped. -/
def prefRow (ft : Features) (ag : Agent) (core asid va n target : Nat) : Act Bool := do
  let m ← get
  if target = 2 && (m.core core).routesAny asid va n then
    prefAll (List.range ((va + n + 3) / 4 - va / 4)) fun i => do
      let m ← get
      match (m.core core).route asid ((va / 4 + i) * 4) 4 with
      | some y => prefSegment ft ag core y
      | none => return true
  else prefAll (linesOf va n) fun a => prefFetch ft ag core asid a 3 0 (target == 1)

/-- A row that a record with TKIND 1 places in the window: only its segments can be fetched, and a row beyond the window is dropped
(DEDUCED, log entry 93). -/
def prefWindow (ft : Features) (ag : Agent) (core : Nat) (b : Block) (off n target : Nat) : Act Bool := do
  if b.winSize < off + n then return false
  if target = 2 then prefAll (List.range ((off + n + 3) / 4 - off / 4)) fun i => prefSegment ft ag core (b.winBase + (off / 4 + i) * 4)
  else return true

/-- A read for a hint: none where it would need outstanding requests, those of a segment's fill among them, and too few are free (R19, R193). -/
def prefRead (ft : Features) (ag : Agent) (core asid va n : Nat) : Act (Option (List Byte)) := do
  if 2 ^ 57 ≤ va then return none
  modify fun m => m.freeRequests core ag.requester
  let m ← get
  match (m.core core).route asid va n with
  | some x =>
    let need ← match (m.core core).cover x with
      | some (k, s) =>
        match mget none (m.core core).skeins k, (m.seg core k s).st with
        | some e, .unfilled => do
          let ws ← fillWords ft core e s
          pure (if e.mode == 2 then 0 else fillLines ws)
        | _, _ => pure 0
      | none => pure 0
    if 1024 < (m.core core).requests + need then return none
  | none =>
    let pg ← translate ft core asid va .read
    if 1024 ≤ (m.core core).requests && (!pg.cached || ((m.core core).l1Bytes pg.loc n).isNone) then return none
  let l ← engRead ft ag core asid va n
  return some l

/-- The record of a PREF.list with the elements of its list; none where the whole hint is dropped (R404). -/
def prefRecord (ft : Features) (ag : Agent) (core asid va : Nat) : Act (Option (Shape × List Nat)) := do
  if va % 64 != 0 then return none
  let mut l : List Byte := []
  for i in List.range 8 do
    match ← prefRead ft ag core asid (va + 8 * i) 8 with
    | some x => l := l ++ x
    | none => return none
  let bytes := l
  let d (i : Nat) : Nat := ofBytes ((bytes.drop (8 * i)).take 8)
  let s := shapeOf d
  if shapeReserved d || 4 < s.elog || s.mode != 1 || (s.early false).isSome then return none
  if s.empty then return some (s, [])
  if s.late.isSome then return none
  return some (s, List.range s.ty)

/-- One element of a PREF.list: its index is read, and the row that a gather would read is fetched on every plane; false where the element is dropped
(R193, R259, R404). -/
def prefElement (ft : Features) (ag : Agent) (core : Nat) (b : Block) (target : Nat) (s : Shape) (j : Nat) : Act Bool := do
  match ← prefRead ft ag core b.asid (s.idx + 4 * j) 4 with
  | none => return false
  | some l =>
    if s.ey ≤ ofBytes l then return false
    prefAll (List.range s.tz) fun z =>
      let a := s.tensorAt 0 (ofBytes l) z
      if s.tkind then prefWindow ft ag core b a (s.tx * s.e) target else prefRow ft ag core b.asid a (s.tx * s.e) target

/-- A hint or element that is made leaves its effect; one that is dropped has none and is counted; one that waits is made later: whether it is over, and
the machine (R193). -/
def Dev.makeHint (m : Dev) (core asid : Nat) (r : Requester) (a : Act Bool) : Bool × Dev :=
  match (asHint a).go m with
  | (.ok true, m1) => (true, m1)
  | (.error .wait, m1) => (false, m1)
  | _ => (true, (m.freeRequests core r).countDrop asid)

/-- What is left of a hint once an element of it is over. -/
def PrefRun.rest (p : PrefRun) (s : Shape) (l : List Nat) : Option PrefRun := if l.isEmpty then none else some { p with left := some (s, l) }

/-- The next step of a hint in the background: a single hint, the record of a list, or one element of it: what remains of the hint, and the machine
(R404, R405). (DEDUCED, log entry 43.) -/
def Dev.prefStep (m : Dev) (ft : Features) (core : Nat) (b : Block) (p : PrefRun) : Option PrefRun × Dev :=
  let asid := b.asid
  let ag := prefAgent core asid p.org.id
  let made (x : Bool × Dev) (rest : Option PrefRun) : Option PrefRun × Dev := (if x.1 then rest else some p, x.2)
  if !p.list then
    let va := p.va.toNat / p.n * p.n
    if (List.range p.n).all fun i => (m.core core).routesAny asid (va + i) 1 then (none, m)
    else made (m.makeHint core asid ag.requester (prefFetch ft ag core asid va p.scope p.hint (p.hint != 3))) none
  else
    match p.left with
    | some (s, j :: r) => made (m.makeHint core asid ag.requester (prefElement ft ag core b p.target s j)) (p.rest s r)
    | some (_, []) => (none, m)
    | none =>
      match (prefRecord ft ag core asid p.va.toNat).go m with
      | (.ok (some (s, l)), m1) => (p.rest s l, m1)
      | (.error .wait, m1) => (some p, m1)
      | _ => (none, (m.freeRequests core ag.requester).countDrop asid)

/-- The hints of a core whose thread's earlier accesses are performed go on by a step (R215, R405). -/
def Dev.prefPump (m : Dev) (ft : Features) (core : Nat) : Dev :=
  (m.core core).prefs.foldl (fun (x : Dev) p =>
    match x.block core p.org.blk with
    | none => x
    | some b =>
      if !(x.core core).accessesDone p.org.blk p.org.after || !x.live b.asid then x
      else
        let (q, x1) := x.prefStep ft core b p
        x1.modCore core fun c => { c with prefs := c.prefs.flatMap fun y => if y.org.id == p.org.id then q.toList else [y] }) m

/-- A hint issues; it is carried out at once where nothing precedes it. -/
def Env.issuePref (e : Env) (p : PrefRun) (m : Dev) : Dev :=
  (m.fresh.modCore e.cu.core fun c => { c with prefs := c.prefs ++ [p] }).prefPump e.ft e.cu.core

/-- PREF (R403): the address takes no extension. -/
def execPref (c : Ctl) (f : MEM) (s : State) : Host.Outcome State Fault Refusal :=
  word c s fun e t m =>
    let va := BitVec.ofInt 64 ((t.pair f.base.toNat).toNat + signExtend f.offset.toNat 16)
    e.issuePref
      { org := e.origin t m.nextId, list := false, va := va, n := tySize f.ty, scope := f.scope, hint := f.hint.toNat, target := 0, left := none } m

/-- PREF.list (R404). -/
def execPrefList (c : Ctl) (f : TX) (s : State) : Host.Outcome State Fault Refusal :=
  word c s fun e t m =>
    e.issuePref
      { org := e.origin t m.nextId, list := true, va := t.pair f.shape.toNat, n := 64, scope := 3, hint := 0, target := f.mode.toNat % 4, left := none } m

end Sys2Proof.Machine
end

