-- ==== Sys2Proof/Machine/Course.lean ====
section
/-! DEFINITION. Courses and clauses: read-sets (R48), eligibility (R47), the forming of courses (R43, R57 to R60), the fetch of a clause
(R49, R105), the entry into a clause (R64 to R67) and its decoding in full (R72, R89, R90, R105). -/

namespace Sys2Proof.Machine

open Sys2Proof

/-! ### Read-sets (R48): g registers by number, predicate i as 64 + i -/

/-- `n` registers from a field on. -/
def codeRegs (r : BitVec 6) (n : Nat) : List Nat := (List.range n).map fun i => r.toNat + i

/-- Registers of a value of a type (R106). -/
def tySpan (t : BitVec 4) (r : BitVec 6) : List Nat := codeRegs r (if tyWide t then 2 else if t == 11 then 4 else 1)

/-- The sources a and b, or a and the immediate. -/
def rrrTwo (f : RRR) : List Nat := tySpan f.ty f.a ++ if f.md.getLsbD 7 then [] else tySpan f.ty f.b

/-- The registers of MX operands: the quads of A and B, and k (R85). -/
def mxRegs (f : MX) : List Nat :=
  ((List.range 4).map fun i => 4 * f.aq.toNat + i) ++ ((List.range 4).map fun i => 4 * f.bq.toNat + i) ++ [f.k.toNat]

/-- The offsets' registers of a sweep word. -/
def swRegs (f : SW) (b : Bool) : List Nat := [f.d.toNat, f.a.toNat] ++ if b then [f.b.toNat] else []

/-- The registers that hold a copy's or comet read's operands. -/
def txRegs (f : TX) : List Nat := codeRegs f.shape 2 ++ codeRegs f.hd 2 ++ if f.mode.getLsbD 0 then [f.kn.toNat] else []

/-- What a word reads, its guard aside. -/
def wordReads : Instr → List Nat
  | .add _ f | .sub _ f | .mul _ f | .mulh _ f | .min _ f | .max _ f | .and _ f | .or _ f | .xor _ f | .shl _ f | .shr _ f | .sar _ f | .cmp _ f
  | .lea _ f => rrrTwo f
  | .mad _ f => rrrTwo f ++ tySpan f.ty f.c
  | .sel _ f => rrrTwo f ++ [64 + f.c.toNat]
  | .abs _ f | .neg _ f | .not _ f | .popc _ f | .clz _ f | .mov _ f => tySpan f.ty f.a
  | .bfx _ f => tySpan f.ty f.a ++ tySpan f.ty f.b
  | .bfi _ f => tySpan f.ty f.a ++ tySpan f.ty f.b ++ tySpan f.ty f.c
  | .fadd _ f | .fsub _ f | .fmul _ f | .fmin _ f | .fmax _ f | .fcmp _ f => [f.a.toNat, f.b.toNat]
  | .ffma _ f => [f.a.toNat, f.b.toNat, f.c.toNat]
  | .fclass _ f | .frcp _ f | .frsq _ f | .fexp2 _ f | .flog2 _ f | .cvtPk _ f | .cvtUp _ f => [f.a.toNat]
  | .cvt _ f => tySpan (cvtSource f) f.a
  | .ld _ f | .pref _ f => codeRegs f.base 2
  | .st _ f | .atomAdd _ f | .atomMin _ f | .atomMax _ f | .atomAnd _ f | .atomOr _ f | .atomXor _ f | .atomExch _ f | .atomInc _ f
  | .waitm _ f => codeRegs f.base 2 ++ tySpan f.ty f.data
  | .lds _ f => [f.base.toNat]
  | .sts _ f => f.base.toNat :: tySpan f.ty f.data
  | .cas _ f => codeRegs f.base 2 ++ codeRegs f.data (if tyWide f.ty then 4 else 2)
  | .cas128 _ f => codeRegs f.base 2 ++ codeRegs f.data 8
  | .brx _ f => codeRegs f.d 2
  | .sign _ f => f.a.toNat :: if f.md.getLsbD 5 then [f.b.toNat] else []
  | .signMask _ f => codeRegs f.a 2 ++ [f.c.toNat] ++ if f.md.getLsbD 5 then [f.b.toNat] else []
  | .vadd _ f | .vmul _ f | .vfma _ f | .vmax _ f | .vrms _ f | .vsmb _ f | .vspc _ _ f => swRegs f true
  | .vexp _ f | .vcopy _ f | .vsum _ f | .vcvtPk _ _ f | .vcvtUp _ _ f => swRegs f false
  | .mma _ f => mxRegs f
  | .mmas _ f => mxRegs f ++ codeRegs f.meta' 2
  | .accrd _ _ f => [f.a.toNat]
  | .rstl _ f => codeRegs f.a 2 ++ codeRegs f.b 2
  | .copy _ f => txRegs f
  | .comet _ f => txRegs f ++ codeRegs f.arg 4
  | .prefList _ f => codeRegs f.shape 2
  | .plymatch _ f | .plymerge _ f => [f.d.toNat, f.a.toNat, f.b.toNat, f.c.toNat]
  | .plysplit _ f => [f.d.toNat, f.a.toNat, f.b.toNat]
  | .launch _ f | .skmap _ f => codeRegs f.a 2
  | .kninit _ f => [f.a.toNat, f.b.toNat]
  | .knarr _ f | .knwait _ f => [f.a.toNat]
  | _ => []

/-- What a word writes: registers, and predicates as 64 + i. -/
def wordWrites : Instr → List Nat
  | .add _ f | .sub _ f | .mul _ f | .mulh _ f | .mad _ f | .min _ f | .max _ f | .and _ f | .or _ f | .xor _ f | .shl _ f | .shr _ f | .sar _ f
  | .lea _ f | .sel _ f | .abs _ f | .neg _ f | .not _ f | .popc _ f | .clz _ f | .mov _ f | .bfx _ f | .bfi _ f => tySpan f.ty f.d
  | .movi _ f => tySpan f.ty f.d
  | .cmp _ f | .fcmp _ f => [64 + f.d.toNat]
  | .fadd _ f | .fsub _ f | .fmul _ f | .fmin _ f | .fmax _ f | .ffma _ f | .fclass _ f | .frcp _ f | .frsq _ f | .fexp2 _ f | .flog2 _ f
  | .cvtPk _ f | .cvtUp _ f => [f.d.toNat]
  | .cvt _ f => tySpan f.ty f.d ++ if 8 ≤ (cvtSource f).toNat && f.ty.toNat ≤ 7 then [64 + f.b.toNat] else []
  | .ld _ f | .lds _ f | .cas _ f | .cas128 _ f | .atomAdd _ f | .atomMin _ f | .atomMax _ f | .atomAnd _ f | .atomOr _ f | .atomXor _ f
  | .atomExch _ f | .atomInc _ f => tySpan f.ty f.d
  | .sign _ f | .signMask _ f | .accalloc _ f => [f.d.toNat]
  | .comet _ f | .seal _ f => [f.tok.toNat]
  | .mvs _ f => codeRegs f.d (if f.sel == 7 then 2 else 1)
  | .launch _ f => [f.d.toNat]
  | .skquery _ f => codeRegs f.d 2
  | _ => []

/-- The read-set of words in a class, `done` being what earlier words have written (R48). -/
def readSetFrom (cls : Nat) (done : List Nat) (ws : List DWord) : List Nat :=
  match ws with
  | [] => []
  | w :: r =>
    match decodeOpc cls (opcOf w).toNat w with
    | some (i, _) =>
      (((64 + (ctlOf w).guard.toNat % 8) :: wordReads i).filter fun x => !done.contains x) ++ readSetFrom cls (done ++ wordWrites i) r
    | none => readSetFrom cls done r

/-- The read-set of a clause, KREG included (R48, R65). -/
def readSet (hdr : DWord) (ws : List DWord) : List Nat :=
  let h := headerOf hdr
  (if h.kw then [h.kreg] else []) ++ readSetFrom h.cls [] ws

/-! ### Decoding in full (R72, R105) -/

/-- A unit is absent or not accepted (R6). -/
def unitAbsent (ft : Features) (u : UnitOf) : Bool :=
  match u with
  | .ply => !ft.has 0
  | .comet => !ft.has 2
  | .sparse => !ft.has 3

/-- The word decodes, whatever its fields, to one that accepts an extension (R89, R107). -/
def takesExt (cls : Nat) (w : DWord) : Bool :=
  match decodeOpc cls (opcOf w).toNat w with
  | some (i, _) => acceptsExt i
  | none => false

/-- The fault of one word: "unit absent" first, then the illegal instruction, a PFX whose next word takes no extension among them (R90, R105). -/
def wordFault (ft : Features) (cls : Nat) (w : DWord) (next : Option DWord) : Option Nat :=
  if ((unitOf cls (opcOf w).toNat).map (unitAbsent ft)).getD false then some 0x13
  else
    match decodeWord cls w with
    | .error _ => some 0x11
    | .ok _ => if isPfx cls (opcOf w).toNat && !(next.any fun x => takesExt cls x) then some 0x11 else none

/-- The faulting word with the lowest position (R105): cause and position. -/
def firstFault (ft : Features) (cls pos : Nat) (ws : List DWord) : Option (Nat × Nat) :=
  match ws with
  | [] => none
  | w :: r =>
    match wordFault ft cls w r.head? with
    | some c => some (c, pos)
    | none => firstFault ft cls (pos + 1) r

/-- The clause takes the illegal-clause fault: its header breaks R63, a word of R71 stands anywhere but last, or a PFX stands last.
(DEDUCED, log entry 41.) -/
def clauseIllegal (hdr : DWord) (ws : List DWord) : Bool :=
  let cls := (headerOf hdr).cls
  headerBad hdr || ws.dropLast.any (fun w => lastOnly cls (opcOf w).toNat) || (ws.getLast?.map fun w => isPfx cls (opcOf w).toNat).getD true

/-- The one fault that a clause's decoding reports (R105): cause and word position, none for the header. -/
def clauseFault (ft : Features) (hdr : DWord) (ws : List DWord) : Option (Nat × Option Nat) :=
  if clauseIllegal hdr ws then some (0x12, none)
  else (firstFault ft (headerOf hdr).cls 0 ws).map fun (c, p) => (c, some p)

/-! ### Eligibility (R47) and entry (R64 to R67) -/

/-- The batch wait, the stitch wait and the scoreboard check (R64, R66, R75). -/
def Core.mayEnter (c : Core) (b : Block) (t : Thread) (bc : BufClause) : Bool :=
  let h := headerOf bc.hdr
  (h.w == 255 || t.batches.length ≤ h.w) && (!h.sw || c.stitchReady b h.stitch) && bc.reads.all fun i => !t.isPending i

/-- The fault of a clause's knot operand: alignment where it is bad (R65), protection where a skein entry covers the knot (R251).
(DEDUCED, log entry 17.) -/
def Core.knotFault (c : Core) (b : Block) (t : Thread) (bc : BufClause) : Option Nat :=
  let h := headerOf bc.hdr
  if h.kw then (match c.knotOperand b (t.reg h.kreg) with | .error e => some e | .ok _ => none) else none

/-- The knot wait (R65). -/
def Core.knotReady (c : Core) (b : Block) (t : Thread) (bc : BufClause) : Bool :=
  let h := headerOf bc.hdr
  !h.kw || (c.knot (b.winBase + knotOff (t.reg h.kreg))).gen != knotGen (t.reg h.kreg)

/-- A thread that stands ready at a clause header, its clause aside. -/
def standsReady (b : Block) (t : Thread) : Bool :=
  b.bst == .running && t.st == .ready && !t.inCourse && !t.stopped && !t.cutHeld

/-- Eligible (R47); a bad knot operand counts as met, so that the thread comes to the entry where its fault is taken (R65).
(DEDUCED, log entry 17.) -/
def Core.eligible (c : Core) (b : Block) (t : Thread) : Bool :=
  standsReady b t &&
    match c.clause b.asid t.pc with
    | some bc => headerBad bc.hdr || (c.mayEnter b t bc && ((c.knotFault b t bc).isSome || c.knotReady b t bc))
    | none => false

/-! ### Forming a course (R43, R57 to R60) -/

/-- The issue slot that serves a block slot (R32). -/
def issueSlotOf (slot : Nat) : Nat := slot / 32 % 4

/-- Block order of R57: higher priority, earlier launch, lower index. -/
def keyBefore (x y : Nat × Nat × Nat) : Bool :=
  y.1 < x.1 || (x.1 == y.1 && (x.2.1 < y.2.1 || (x.2.1 == y.2.1 && x.2.2 < y.2.2)))

/-- A block's place in that order. -/
def Block.key (b : Block) : Nat × Nat × Nat := (b.prio, b.launch, b.index)

/-- The first block of a list in the order of R57. -/
def firstBlock (l : List Block) : Option Block :=
  match l with
  | [] => none
  | b :: r => match firstBlock r with | some x => some (if keyBefore x.key b.key then x else b) | none => some b

/-- The eligible threads of a block on an issue slot, lowest slots first. -/
def Core.eligibleIn (c : Core) (b : Block) (islot : Nat) : List (Nat × Thread) :=
  b.threads.filter fun (s, t) => issueSlotOf s == islot && c.eligible b t

/-- The thread is overdue (R58). -/
def overdueIn (b : Block) (t : Thread) : Bool := !b.rec_.nofair && b.rec_.fairwin ≤ t.age

/-- Overdue threads in their order: the longest overdue first, the lowest slot among equals. -/
def overdueOrder (l : List (Nat × Thread)) : List (Nat × Thread) :=
  let at_ (x : Nat × Thread) : Nat := x.2.overdueAt.getD (2 ^ 64)
  sortBy (fun x y => at_ x < at_ y || (at_ x == at_ y && x.1 ≤ y.1)) l

/-- The course's members from its clause address: the first 32 of a list in the order given, in ascending slot order. (DEDUCED, log entry 19.) -/
def pickMembers (l : List (Nat × Thread)) (pc : DWord) : List Nat :=
  sortBy (fun a b => decide (a ≤ b)) (((l.filter fun e => e.2.pc == pc).take 32).map (·.1))

/-- The next course of an issue slot by R57: its block, address and members. -/
def Core.plainChoice (c : Core) (islot : Nat) : Option (Block × DWord × List Nat) :=
  let el (b : Block) := c.eligibleIn b islot
  let unmarked := c.blocks.any fun b => (el b).any fun e => !e.2.yield
  let lead (b : Block) := (el b).filter fun e => !unmarked || !e.2.yield
  match firstBlock (c.blocks.filter fun b => !(lead b).isEmpty) with
  | none => none
  | some b =>
    (lead b).head?.map fun e =>
      (b, e.2.pc, pickMembers (((el b).filter fun x => !x.2.yield) ++ (el b).filter fun x => x.2.yield) e.2.pc)

/-- The next overdue turn of an issue slot (R58): the turns pass among the blocks with overdue threads in the order of R57. The cycle goes on after the block
that took the slot's last overdue turn, however long ago, and where none has, begins with the first block (DESIGN CHOICE, log entry 98); the
eligible threads that fill a turn come in slot order (DEDUCED, log entry 19). -/
def Core.overdueChoice (c : Core) (islot : Nat) : Option (Block × DWord × List Nat) :=
  let due (b : Block) := (c.eligibleIn b islot).filter fun e => overdueIn b e.2
  let bs := c.blocks.filter fun b => !(due b).isEmpty
  let later := bs.filter fun b => match mget none c.turn islot with | some k => keyBefore k b.key | none => true
  match (match firstBlock later with | some b => some b | none => firstBlock bs) with
  | none => none
  | some b =>
    let ds := overdueOrder (due b)
    ds.head?.map fun e => (b, e.2.pc, pickMembers (ds ++ (c.eligibleIn b islot).filter fun x => !overdueIn b x.2) e.2.pc)

/-- The core without the blocks of contexts that are halting. -/
def Dev.liveCore (m : Dev) (core : Nat) : Core := { m.core core with blocks := (m.core core).blocks.filter fun b => m.live b.asid }

/-- The core's cycle may end: the words due in it have issued, every course formed in it has entered its clause or dissolved, and no overdue thread waits
for a course at a free issue slot (R44, R58, R59). (DEDUCED, log entry 16.) -/
def Dev.cycleOver (m : Dev) (core : Nat) : Bool :=
  let c := m.core core
  !c.courses.any (fun x => x.due c.cyc || !x.entered) && (List.range 4).all fun i =>
    mget 0 c.hold i != 0 || (c.course i).isSome || ((m.liveCore core).overdueChoice i).isNone

/-- The core's cycle ends: no course issues a further word in it, and no issue slot forms one. -/
def Core.endCycle (c : Core) : Core :=
  { c with courses := c.courses.map (fun x => { x with last := some c.cyc }), hold := (List.range 4).foldl (fun h i => mput 0 h i (max 1 (mget 0 h i))) c.hold }

/-- COURSE_FORM: an issue slot that holds no course, four core cycles or more after its last, forms the next (R43, R57, R58). -/
def execCourseForm (core islot : Nat) (s : State) : Host.Outcome State Fault Refusal :=
  onM s fun _ m =>
    let c := m.core core
    if 4 ≤ islot || (c.course islot).isSome || mget 0 c.hold islot != 0 then m
    else
      let c0 := m.liveCore core
      let late := c0.overdueChoice islot
      match (match late with | some x => some x | none => c0.plainChoice islot) with
      | none => m
      | some (b, pc, ms) =>
        m.setCore core { c with
          courses := c.courses ++ [{ islot := islot, blk := b.id, addr := pc, members := ms, entered := false, pos := 0, idx := 0, last := none }]
          hold := mput 0 c.hold islot 4, turn := if late.isSome then mput none c.turn islot (some b.key) else c.turn }

/-- THREAD_OVERDUE: an eligible thread's age has reached its launch's FAIRWIN (R58, R60). -/
def execThreadOverdue (core blk slot : Nat) (s : State) : Host.Outcome State Fault Refusal :=
  onM s fun _ m =>
    match m.block core blk with
    | some b =>
      let t := b.thread slot
      if (m.core core).eligible b t && overdueIn b t && t.overdueAt.isNone then
        m.modThread core blk slot fun x => { x with overdueAt := some (m.core core).cyc.toNat }
      else m
    | none => m

/-! ### Entering a clause (R44, R67, R72) -/

/-- The charge of a fault that belongs to a clause: its header, or a word by position (R298, R299). (DEDUCED, log entry 18.) -/
def clauseCharge (core slot : Nat) (addr hdr : DWord) (ws : List DWord) (pos : Option Nat) (engine : Engine) : Charge :=
  { engine := engine, core := core, slot := slot, addr := addr
    word := (match pos with | some p => ws.getD p 0 | none => hdr)
    info0 := (match pos with | some p => BitVec.ofNat 32 p | none => 0xFFFFFFFF), info1 := 0 }

/-- A member whose knot operand is bad takes its fault, and does not enter (R65, R251). -/
def Dev.knotEntryFault (m : Dev) (core : Nat) (b : Block) (bc : BufClause) (slot : Nat) : Dev :=
  let cause := ((m.core core).knotFault b (b.thread slot) bc).getD 0x14
  (m.charge b.asid (clauseCharge core slot bc.addr bc.hdr bc.words none .simt) (Flt.plain cause) (.access 0 0)).modThread core b.id slot fun t =>
    { t with stopped := true }

/-- CLAUSE_ENTER: in a cycle in which its waits and the scoreboard pass, each member of the course enters; the clause is decoded in full, and
a fault of decoding is reported once, for the lowest slot (R67, R72). (DEDUCED, log entry 16.) -/
def execClauseEnter (core islot : Nat) (s : State) : Host.Outcome State Fault Refusal :=
  onM s fun ft m =>
    let c := m.core core
    match c.course islot with
    | none => m
    | some x =>
      if x.entered then m
      else
        let gone := m.setCore core (c.putCourse islot none)
        match c.block x.blk with
        | none => gone
        | some b =>
          match c.clause b.asid x.addr with
          | none => gone
          | some bc =>
            let here := x.members.filter fun s => standsReady b (b.thread s) && (b.thread s).pc == x.addr &&
              (headerBad bc.hdr || c.mayEnter b (b.thread s) bc)
            let bad := here.filter fun s => !headerBad bc.hdr && (c.knotFault b (b.thread s) bc).isSome
            let ms := here.filter fun s => headerBad bc.hdr || ((c.knotFault b (b.thread s) bc).isNone && c.knotReady b (b.thread s) bc)
            if !m.live b.asid then gone
            else
              let m1 := bad.foldl (fun y s => y.knotEntryFault core b bc s) m
              match ms with
              | [] => m1.modCore core fun y => y.putCourse islot none
              | lead :: _ =>
                match clauseFault ft bc.hdr bc.words with
                | some (cause, pos) =>
                  ((m1.charge b.asid (clauseCharge core lead bc.addr bc.hdr bc.words pos .simt) (Flt.plain cause) (.access 0 0)).modThread core b.id lead
                    fun t => { t with stopped := true }).modCore core fun y => y.putCourse islot none
                | none =>
                  let m2 := ms.foldl (fun y s => y.modThread core b.id s fun t =>
                    { t with inCourse := true, yield := false, age := 0, overdueAt := none }) m1
                  m2.modCore core fun y =>
                    { y.putCourse islot (some { x with members := ms, entered := true, pos := 0, idx := 0 }) with
                      hold := mput 0 y.hold islot (max 4 (headerOf bc.hdr).count) }

/-! ### Fetching a clause (R49, R105) -/

/-- The instruction buffer's doubleword at an address, where a line holds it (R48). -/
def Core.bufWord (c : Core) (asid va : Nat) : Option DWord :=
  (c.lines.find? fun x => x.asid == asid && x.line == va / 128).bind fun x => mget none x.data va

/-- The instruction buffer takes a doubleword into its line (R48). -/
def Core.putBufWord (c : Core) (asid va : Nat) (w : DWord) : Core :=
  let old := c.lines.find? fun x => x.asid == asid && x.line == va / 128
  let x : IbufLine := { asid := asid, line := va / 128, data := mput none ((old.map fun y => y.data).getD []) va (some w) }
  { c with lines := x :: c.lines.filter fun y => !(y.asid == asid && y.line == va / 128) }

/-- The lines that a clause spans (R48). -/
def BufClause.lines (b : BufClause) : List Nat := ((List.range (b.words.length + 1)).map fun i => (b.addr.toNat + 8 * i) / 128).eraseDups

/-- A clause at an address has a doubleword in a line: its header, or, once the buffer holds that, a word of those that it counts (R48). -/
def Core.clauseUses (c : Core) (asid : Nat) (pc : DWord) (line : Nat) : Bool :=
  let last := match c.bufWord asid pc.toNat with | some h => pc.toNat + 8 * (headerOf h).count | none => pc.toNat
  pc.toNat / 128 ≤ line && line ≤ last / 128

/-- Threads whose fetch is pending and whose clause uses a line: they stand ready at a clause that the buffer does not hold whole (R48). -/
def Core.fetchRefs (c : Core) (asid line : Nat) : Nat :=
  ((c.blocks.filter fun b => b.asid == asid).map fun b =>
    (b.threads.filter fun (_, t) => standsReady b t && (c.clause asid t.pc).isNone && c.clauseUses asid t.pc line).length).sum

/-- A line's reference count: the courses in flight whose clause uses it, and the pending fetches that do (R48). (DEDUCED, log entry 20.) -/
def Core.lineRefs (c : Core) (asid line : Nat) : Nat := c.fetchRefs asid line +
  (c.courses.filter fun x => match c.block x.blk with
    | some b => b.asid == asid && (c.clause asid x.addr).any fun y => y.lines.contains line
    | none => false).length

/-- Lines leave the instruction buffer, and with them the clauses that use them (R48, R50). -/
def Core.dropLines (c : Core) (f : Nat → Nat → Bool) : Core :=
  { c with lines := c.lines.filter (fun x => !f x.asid x.line), ibuf := c.ibuf.filter fun b => !b.lines.any fun l => f b.asid l }

/-- A line that no course uses is evicted (R48). (DEDUCED, log entry 20.) -/
def Core.evictLine (c : Core) (asid line : Nat) : Core := if c.lineRefs asid line = 0 then c.dropLines fun a l => a == asid && l == line else c

/-- One doubleword of code: from the instruction buffer where a line holds it, else with execute permission the bytes as the core reads them, a miss of L1
taking a request (R19, R48, R61). -/
def fetchDWord (ft : Features) (core : Nat) (asid : Nat) (ch : Charge) (va : Nat) : Act DWord := do
  let m ← get
  match (m.core core).bufWord asid va with
  | some w => return w
  | none =>
    let pg ← translate ft core asid va .fetch
    let m ← get
    let ag := threadAgent asid ch
    let load := coreLoad ft ag core pg (BitVec.ofNat 64 va) 8 false
    let l ← if ((m.core core).l1Bytes pg.loc 8).isNone then withRequests core ag.requester 1 load else load
    modify fun m => m.modCore core fun c => c.putBufWord asid va (BitVec.ofNat 64 (ofBytes l))
    return BitVec.ofNat 64 (ofBytes l)

/-- The words of a clause in their order. -/
def fetchWords (ft : Features) (core asid : Nat) (ch : Charge) (va n : Nat) : Act (List DWord) := do
  let mut out : List DWord := []
  for i in List.range n do
    let w ← fetchDWord ft core asid ch (va + 8 * (i + 1))
    out := out ++ [w]
  return out

/-- Some fetch of this clause has been suspended by a fault (R49). (DEDUCED, log entry 21.) -/
def Dev.fetchSuspended (m : Dev) (core asid : Nat) (addr : DWord) : Bool :=
  let test (x : Option Susp) : Bool := match x with | some (.fetch k _ _ a) => k == core && a == addr | _ => false
  match m.ctx asid with
  | some c => c.waiting.any (fun f => test f.susp) || c.tagged.any fun t => test t.info.susp
  | none => false

/-- A fault of a fetch (R49): WORD, which no rule states where the word has not been fetched, is a free value. (DEDUCED, log entry 21.) -/
def Dev.fetchFault (m : Dev) (asid : Nat) (ch : Charge) (f : Flt) (susp : Susp) : Dev :=
  { m with freeCtr := m.freeCtr + 2 }.charge asid { ch with word := Config.freeWord (m.freeCtr + 1) ++ Config.freeWord m.freeCtr } f susp

/-- What a block's clause fetch is charged to (R49). -/
def Block.fetchCharge (b : Block) (core slot : Nat) (addr hdr : DWord) : Charge := { clauseCharge core slot addr hdr [] none .fetch with op := b.id }

/-- CLAUSE_FETCH: for a thread that waits on it, a clause is fetched into the instruction buffer: the header and its check, then the words, then
the read-set (R48, R105). (DEDUCED, log entry 18; DEDUCED, log entry 20.) -/
def execClauseFetch (core blk slot : Nat) (s : State) : Host.Outcome State Fault Refusal :=
  onM s fun ft m =>
    match m.block core blk with
    | none => m
    | some b =>
      let t := b.thread slot
      let c := m.core core
      if !standsReady b t || !m.live b.asid || (c.clause b.asid t.pc).isSome || m.fetchSuspended core b.asid t.pc then m
      else
        let susp : Susp := .fetch core blk slot t.pc
        let chH := b.fetchCharge core slot t.pc 0
        match (fetchDWord ft core b.asid chH t.pc.toNat).go m with
        | (.error .wait, m1) => m1
        | (.error (.flt f), m1) => m1.fetchFault b.asid chH { f with va := t.pc } susp
        | (.ok hdr, m1) =>
          let lead := ((b.threads.filter fun (s, x) => issueSlotOf s == issueSlotOf slot && standsReady b x && x.pc == t.pc).map (·.1)).headD slot
          if headerBad hdr then
            (m1.charge b.asid (clauseCharge core lead t.pc hdr [] none .simt) (Flt.plain 0x12) susp).modThread core blk lead fun x => { x with stopped := true }
          else
            let ch := b.fetchCharge core slot t.pc hdr
            match (fetchWords ft core b.asid ch t.pc.toNat (headerOf hdr).count).go m1 with
            | (.error .wait, m2) => m2
            | (.error (.flt f), m2) =>
              let p := (f.va.toNat - t.pc.toNat) / 8 - 1
              m2.fetchFault b.asid { ch with info0 := BitVec.ofNat 32 p } { f with va := t.pc } susp
            | (.ok ws, m2) =>
              m2.modCore core fun y => { y with ibuf := y.ibuf ++ [{ asid := b.asid, addr := t.pc, hdr := hdr, words := ws, reads := readSet hdr ws }] }

end Sys2Proof.Machine
end

