-- ==== Sys2Proof/Machine/Control.lean ====
section
/-! DEFINITION. The control words of class 0: BRA, BRX, CALL, RET, EXIT, TRAP, BRK (R340, R348 to R351, R362, R406, R422), STEP
(R309, R419), SIGN in its two forms (R411 to R413). -/

namespace Sys2Proof.Machine

open Sys2Proof

/-- The member leaves for a target, or takes the protection fault of R168 at the branch word (R340). -/
def Env.jump (e : Env) (m : Dev) (pc : DWord) : Dev :=
  if vaBad pc then e.fault m (Flt.plain 0x10) else e.mod m fun t => t.leave pc

/-- BRA (R348). -/
def execBra (c : Ctl) (f : BR) (s : State) : Host.Outcome State Fault Refusal :=
  lastWord c s fun e _ m => e.jump m (branchTarget e.cu.addr f.offset)

/-- BRX (R83, R350). -/
def execBrx (c : Ctl) (f : BR) (s : State) : Host.Outcome State Fault Refusal :=
  lastWord c s fun e t m =>
    let pc := t.pair f.d.toNat
    if pc.extractLsb' 0 3 != 0 then e.fault m (Flt.plain 0x14) else e.jump m pc

/-- CALL (R30, R351): the return address is the next clause; a full stack stays as it was, and where the target is out of range the address has been pushed
(R102, R340). -/
def execCall (c : Ctl) (f : BR) (s : State) : Host.Outcome State Fault Refusal :=
  lastWord c s fun e t m =>
    let pc := branchTarget e.cu.addr f.offset
    if t.stack.length = 32 then e.fault m (Flt.plain 0x10)
    else e.jump (e.mod m fun x => { x with stack := x.stack ++ [nextClause e.cu.addr e.cu.hdr] }) pc

/-- RET (R406): with an empty stack it is EXIT. -/
def execRet (c : Ctl) (_ : BR) (s : State) : Host.Outcome State Fault Refusal :=
  lastWord c s fun e t m =>
    match t.stack.getLast? with
    | none => m.exitThread e.cu.core e.cu.blk e.cu.slot
    | some pc =>
      if vaBad pc then e.fault m (Flt.plain 0x10)
      else if pc.extractLsb' 0 3 != 0 then e.fault m (Flt.plain 0x14)
      else e.mod m fun x => { x with stack := x.stack.dropLast }.leave pc

/-- EXIT (R362). -/
def execExit (c : Ctl) (_ : BR) (s : State) : Host.Outcome State Fault Refusal :=
  lastWord c s fun e _ m => m.exitThread e.cu.core e.cu.blk e.cu.slot

/-- TRAP and BRK: a non-replayable fault whose INFO0 is the code (R299, R349). -/
def Env.trapFault (e : Env) (m : Dev) (cause : Nat) (code : Word) : Dev :=
  let i := e.charge.info (Flt.plain cause) e.cyc (.access 0 0)
  e.mod (m.raise e.blk.asid { i with info0 := code }) fun t => { t with stopped := true }

/-- TRAP (R422). -/
def execTrap (c : Ctl) (f : RI) (s : State) : Host.Outcome State Fault Refusal := lastWord c s fun e _ m => e.trapFault m 0x20 f.imm

/-- BRK (R349). -/
def execBrk (c : Ctl) (f : RI) (s : State) : Host.Outcome State Fault Refusal := lastWord c s fun e _ m => e.trapFault m 0x21 f.imm

/-- A participant of a running cut is held at a STEP that reaches the target (R309). (DEDUCED, log entry 34.) -/
def Dev.cutHolds (m : Dev) (asid : Nat) (n : Word) : Bool :=
  match m.ctx asid with
  | some c => c.cut.st == .running && c.cut.target.toNat ≤ n.toNat
  | none => false

/-- STEP (R309, R419): a comet thread is never held. (DEDUCED, log entry 34.) -/
def execStep (c : Ctl) (f : RI) (s : State) : Host.Outcome State Fault Refusal :=
  word c s fun e t m => e.mod m fun x => { x with step := f.imm, cutHeld := x.cutHeld || (t.comet.isNone && m.cutHolds e.blk.asid f.imm) }

/-- The timeout of a SIGN (R412): g[T] in core cycles, none where no register is named. -/
def signTimeoutOf (f : RRR) (t : Thread) : Nat := if f.md.getLsbD 5 then (t.reg f.b.toNat).toNat else 0

/-- A SIGN with its set: the checks of R412 where the set is read, then SignStitch. -/
def signWord (e : Env) (t : Thread) (f : RRR) (mask : Bool) (m : Dev) : Dev :=
  let k := f.md.toNat % 16
  let s := e.blk.stitch k
  match (if s.decl || s.setr then none else signBad mask (t.reg f.a.toNat) (t.reg f.c.toNat)) with
  | some code => e.fault m (Flt.shape code)
  | none =>
    e.sign k f.d.toNat
      { mask := mask, cnt := if mask then 0 else (t.reg f.a.toNat).toNat, base := if mask then (t.reg f.c.toNat).toNat % 2048 else 0,
        memb := if mask then t.pair f.a.toNat else 0 } (signTimeoutOf f t) m

/-- SIGN in count form (R411 to R413). -/
def execSign (c : Ctl) (f : RRR) (s : State) : Host.Outcome State Fault Refusal := lastWord c s fun e t m => signWord e t f false m

/-- SIGN in mask form (R411 to R413). -/
def execSignMask (c : Ctl) (f : RRR) (s : State) : Host.Outcome State Fault Refusal := lastWord c s fun e t m => signWord e t f true m

/-- SIGN_TIMEOUT: a parked signer's timer, which runs while its block is resident, has reached 0 (R54). A last signature of the same core cycle would complete the set, so the withdrawal comes at the
end of the cycle: the words due in it have issued, and no further word issues in it. -/
def execSignTimeout (core blk slot : Nat) (s : State) : Host.Outcome State Fault Refusal :=
  onM s fun _ m =>
    match m.thread core blk slot with
    | some t => if t.st == .stitch && t.tmo == some 0 && m.cycleOver core && (m.block core blk).any (fun b => b.bst == .running) then (m.modCore core Core.endCycle).signExpire core blk slot else m
    | none => m

end Sys2Proof.Machine
end

