-- ==== Sys2Proof/Machine/MemEvents.lean ====
section
/-! DEFINITION. The steps of the memory system: requests at home slices, retries, publishes, wide releases, walks, AtomicOp completions,
arriving results, fills and write-backs landing, requests from the hosts and from other pod devices. -/

namespace Sys2Proof.Machine

open Sys2Proof

/-- HOME_REQUEST: a home slice serves, forwards, refuses or recalls for a request (R151, R180). -/
def execHomeRequest (core id : Nat) (s : State) : Host.Outcome State Fault Refusal :=
  onM s fun ft m =>
    match (m.core core).access id with
    | some a => if a.phase == .home then m.homeStep ft core id false else m
    | none => m

/-- REQUEST_RETRY: a refused requester retries once its backoff has passed; it marks a retry after REFMAX refusals as starving (R180, R181). -/
def execRequestRetry (core id : Nat) (s : State) : Host.Outcome State Fault Refusal :=
  onM s fun ft m =>
    match (m.core core).access id with
    | some a => if a.phase == .refused 0 then (m.modAcc core id fun x => { x with phase := .home }).homeStep ft core id false else m
    | none => m

/-- FORCED_PUBLISH: the writers' cores publish, and the read of a thread may be answered; for a read by an engine or another agent, the core that owes
the publish performs it (R211, R213). -/
def execForcedPublish (core id : Nat) (s : State) : Host.Outcome State Fault Refusal :=
  onM s fun ft m =>
    match (m.core core).access id with
    | some a =>
      match a.phase, a.leaf with
      | .publish, some e =>
        let pg := e.leaf.pageOf a.asid a.part.va.toNat
        let m1 := (m.publishers core pg.loc a.part.n).foldl (fun x (c, s) => x.publish ft c s) m
        if (m1.publishers core pg.loc a.part.n).isEmpty then m1.modAcc core id fun x => { x with phase := .home } else m1
      | _, _ => m.publishForced ft core
    | none => m.publishForced ft core

/-- WIDE_RELEASE_COMPLETE: the release asks the slices for their counts, and is performed once every write that the core had performed at core scope by
then, and every earlier access of its thread, has arrived (R208, R214). -/
def execWideReleaseComplete (core id : Nat) (s : State) : Host.Outcome State Fault Refusal :=
  onM s fun ft m =>
    match (m.core core).access id with
    | some a =>
      let acq := m.acqOf core a
      if a.phase != .new || a.wideDone || !((m.core core).earlier a).isEmpty || !(m.core core).accessesDone a.blk acq then m
      else
        let n := a.wide.getD m.nextId
        if (m.core core).wideReady a acq n then (m.modAcc core id fun x => { x with wideDone := true }).tryAccess ft core id
        else m.modAcc core id fun x => { x with wide := some n }
    | none => m

/-- A miss of the translation cache has one of the 64 walks of its die, which go in arrival order (R313). -/
def Dev.walkTurn (m : Dev) (ft : Features) (core : Nat) (a : Access) : Bool := m.walksBefore ft core a.asked < 64

/-- TRANSLATION_WALK: the die's walker walks for an access that missed the translation cache (R313). -/
def execTranslationWalk (core id : Nat) (s : State) : Host.Outcome State Fault Refusal :=
  onM s fun ft m =>
    match (m.core core).access id with
    | some a =>
      if a.phase != .walk || m.suspended a.asid (.access core id) || !m.walkTurn ft core a then m
      else
        match (walkAndCache ft core a.asid a.va.toNat a.need).go m with
        | (.ok _, m1) => (m1.modAcc core id fun x => { x with phase := .new }).tryAccess ft core id
        | (.error e, m1) => m1.settleAcc core a (.error e, m1)
    | none => m

/-- ATOMICOP_COMPLETION: an AtomicOp at the host completes. Integer add, exchange and compare-and-swap are one AtomicOp; the others read
with a FetchAdd of 0 and then issue CAS after CAS until one succeeds (R325). (DEDUCED, log entry 75.) On a page with a key the value acted on is the decrypted one
(DESIGN CHOICE, log entry 122). -/
def execAtomicopCompletion (core id : Nat) (refused : Bool) (s : State) : Host.Outcome State Fault Refusal :=
  onM s fun ft m =>
    match (m.core core).access id with
    | some a =>
      match a.phase, a.leaf with
      | .atomicOp old, some l =>
        let pg := l.leaf.pageOf a.asid a.va.toNat
        let ag := threadAgent a.asid (a.charge core)
        let m := m.dropL1 core fun y _ => y / 128 == pg.loc / 128
        if refused then m.settleAcc core a (.error (.flt { transFlt 0x1F a.va.toNat .both with pa := pg.loc % 2 ^ 52 }), m)
        else
          let cur := ofBytes (m.homeBytes pg.key pg.loc a.n)
          let new (o : Nat) : Option Nat := atomicNew a.kind (a.ty == 6 || a.ty == 7) a.n o a.v a.cmp
          let put (m : Dev) (v : Nat) : Dev :=
            (m.writeHome 3 pg.key pg.loc (toBytes a.n v)).noteWrite ag pg.loc a.n
          let single := a.kind == .add || a.kind == .exch || a.kind == .cas
          if !m.linkUp ft pg.loc then m.settleAcc core a (.error (.flt { transFlt 0x1D a.va.toNat .both with pa := pg.loc % 2 ^ 52 }), m)
          else if single then
            ((match new cur with | some v => put m v | none => m).finish core a (toBytes a.n cur))
          else
            match old with
            | none => m.modAcc core id fun x => { x with phase := .atomicOp (some cur) }
            | some o =>
              if o = cur then ((match new o with | some v => put m v | none => m).finish core a (toBytes a.n o))
              else m.modAcc core id fun x => { x with phase := .atomicOp (some cur) }
      | .atomicOp _, none => m.modAcc core id fun x => { x with phase := .new }
      | _, _ => m
    | none => m

/-! ### Requests from outside the device (R151, R182, R322, R330) -/

/-- What a request of another agent does at the home, as this model's home slice serves it. -/
def agentHomeOp (o : AgentOp) (n : Nat) : HomeOp :=
  match o with
  | .load => .load
  | .store l => .store l
  | .fetchAdd v => .rmw fun old => some ((old + v) % 2 ^ (8 * n))
  | .swap v => .rmw fun _ => some v
  | .cas cmp new => .rmw fun old => if old = cmp then some new else none
  | .min signed v => .rmw fun old => atomicNew .min signed n old v 0
  | .max signed v => .rmw fun old => atomicNew .max signed n old v 0
  | .and v => .rmw fun old => atomicNew .and false n old v 0
  | .or v => .rmw fun old => atomicNew .or false n old v 0
  | .xor v => .rmw fun old => atomicNew .xor false n old v 0
  | .inc v => .rmw fun old => atomicNew .inc false n old v 0
  | .addF32 v => .rmw fun old => atomicNew .fadd false n old v 0
  | .own => .rmw fun _ => none
  | .giveUp => .load

/-- A line is held under a key: by a stash, by the L1 of a core, by a slice, or by a slice of another die (R322). -/
def Dev.keyedHere (m : Dev) (loc : Nat) : Bool :=
  let line := loc / 128 * 128
  m.far.any (fun (a, e) => a % 2 ^ 64 / 128 == loc / 128 && e.any fun x => x.key != 0) || ((m.holders line 128).any fun h => h.word.key != 0) || (match mget none m.l2 (loc / 512) with | some b => b.key != 0 | none => false) ||
    m.cores.any fun (_, c) => c.l1.any fun (a, e) => a / 128 == loc / 128 && (match e with | some x => x.key != 0 | none => false)

/-- A line held under a key leaves the stashes, L1 and the slice for memory (R322). -/
def releaseLine (loc : Nat) : Act Unit := do
  let m ← get
  recallAll (m.holders (loc / 128 * 128) 128)
  let m ← get
  let m1 := m.cores.foldl (fun (x : Dev) p => x.dropL1 p.1 fun a _ => a / 128 == loc / 128) m
  let m2 := m1.dropL2 (loc / 512)
  set { m2 with far := m2.far.filter fun x => x.1 % 2 ^ 64 / 512 != loc / 512 }

/-- A request of an outside agent served at the home slice: never refused (R182); the bytes it returns. Lines held under a key are first
recalled, written back and invalidated, and the request acts on the bytes as they rest (R322). (DEDUCED, log entry 74.) -/
def serveOutside (ag : Agent) (loc n : Nat) (o : AgentOp) : Act (List Byte) := do
  let m ← get
  let op := agentHomeOp o n
  let old ← if m.keyedHere loc then do
    releaseLine loc
    homePerform 3 0 loc n op none
  else
    if o == .own then recallAll (m.holders (loc / 512 * 512) 512)
    homeServe 2 0 loc n (loc / 512 * 512) 512 (2 ^ 13) op none
  if o == .own then modify fun m => (m.dropFarRun (loc / 512 * 512) 512).recallPods loc 1
  if (op.new old n).isSome then modify fun m => (m.noteWrite ag loc n).setMarks loc n none
  return old

/-- The host has answered for the line of another agent's request (R322), and no other pod device owns it (R330). -/
def Dev.hostAnswered (m : Dev) (x : OutsideReq) : Bool :=
  match x.agent with
  | .host _ => !m.podOwned.any fun y => y.2.1 == x.loc / 512
  | .pod d => !m.heldOutside (some d) (x.loc / 512)
  | .hart _ => !m.heldOutside none (x.loc / 512)

/-- Those that an outside request waits for are asked: never the agent whose request it is (R322, R330). -/
def Dev.askFor (m : Dev) (x : OutsideReq) : Dev :=
  match x.agent with
  | .host _ => m.askOwners false none (x.loc / 512)
  | .pod d => m.askOwners true (some d) (x.loc / 512)
  | .hart _ => m.askOwners true none (x.loc / 512)

/-- The request is an owner's write-back or its answer to a recall: no reservation holds it up, for the request that has the reservation waits for it (R330). -/
def Dev.ownersAnswer (m : Dev) (x : OutsideReq) : Bool :=
  match x.agent with
  | .pod d => m.podOwned.any fun y => y.1 == d && y.2.1 == x.loc / 512
  | _ => false

/-- Two locations lie in one grain of the live state of their block (R179); of a block with none, in one line of 128 bytes. -/
def Dev.oneGrain (m : Dev) (loc y : Nat) : Bool :=
  let g := match m.liveGrain (loc / 512) with | some g => grainSize g | none => 128
  y / g == loc / g

/-- After a request was served its agent may hold a copy: a host after a CXL.mem request, which a PCIe AtomicOp is not (R320, R322), another pod device after a
load, or own its block (R330; DESIGN CHOICE, log entry 110). -/
def Dev.keepsCopy (m : Dev) (x : OutsideReq) : Dev :=
  let add (l : List Nat) : List Nat := if l.contains (x.loc / 512) then l else x.loc / 512 :: l
  match x.agent, x.op with
  | .host _, .load => { m with hostHeld := add m.hostHeld }
  | .host _, .store _ => { m with hostHeld := add m.hostHeld }
  | .pod d, .own =>
    { m with
      podHeld := m.podHeld.filter (fun y => y.2 != x.loc / 512)
      podOwned := if m.podOwned.any (fun y => y.1 == d && y.2.1 == x.loc / 512) then m.podOwned else (d, x.loc / 512, false) :: m.podOwned }
  | .pod d, .giveUp => { m with podOwned := m.podOwned.filter fun y => !(y.1 == d && y.2.1 == x.loc / 512) }
  | .pod d, .load => { m with podHeld := if m.podHeld.contains (d, x.loc / 512) then m.podHeld else (d, x.loc / 512) :: m.podHeld }
  | _, _ => m

/-- One outside request is tried: it answers, or goes on waiting in its grain's queue: for the host's answer, for a transaction in flight on the grain, or,
where it came after the grain had been reserved for a request that is still there, for that one (R152, R180 to R182). A read first forces the publishes it needs (R211,
R213). (DEDUCED, log entry 74.) -/
def Dev.tryOutside (m : Dev) (ft : Features) (x : OutsideReq) : Dev × Bool :=
  let reads := (agentHomeOp x.op x.n).reads
  let m0 := if reads then m.publishFor ft x.loc x.n else m
  if m.home.busy.any (m.oneGrain x.loc) || (x.late.isSome && m.reservedFor (m.oneGrain x.loc) == x.late && !m.ownersAnswer x) then (m, false)
  else if reads && !(m0.publishers (2 ^ 13) x.loc x.n).isEmpty then (m0, false)
  else if !m0.hostAnswered x then (m0.askFor x, false)
  else
    match (serveOutside x.agent.agent x.loc x.n x.op).go m0 with
    | (.ok old, m1) =>
      ((m1.keepsCopy x).modMgmt fun g => { g with reply := old, readBack := BitVec.ofNat 64 (ofBytes (old.take 8)) }, true)
    | (.error _, m1) => (m1, false)

/-- The outside requests that wait are served in arrival order, each grain's own order kept (R152, R182): fuel is their number. -/
def Dev.serveQueue (m : Dev) (ft : Features) (l : List OutsideReq) : Dev :=
  match l with
  | [] => m
  | x :: r =>
    let first := !(m.home.outside.takeWhile fun y => y != x).any fun y => m.oneGrain x.loc y.loc
    if !first then m.serveQueue ft r
    else
      match m.tryOutside ft x with
      | (m1, true) => Dev.serveQueue { m1 with home := { m1.home with outside := m1.home.outside.erase x } } ft r
      | (m1, false) => m1.serveQueue ft r

/-- Every waiting outside request is tried (R152). -/
def Dev.serveOutsideAll (m : Dev) (ft : Features) : Dev := m.serveQueue ft m.home.outside

/-- An outside request reaches its home slice and joins the queue of its grain (R182). -/
def Dev.askOutside (m : Dev) (ft : Features) (a : OutsideAgent) (r : AgentRequest) : Dev :=
  let late := if m.home.busy.any (m.oneGrain r.pa) then none else m.reservedFor (m.oneGrain r.pa)
  let x : OutsideReq := { id := m.nextId, agent := a, loc := r.pa, n := r.size, op := r.op, late := late }
  Dev.serveOutsideAll { m.fresh with home := { m.home with outside := m.home.outside ++ [x] } } ft

/-- A word of a filling segment can no longer be read: its port or link has failed, or its data has been poisoned since (R296, R327). -/
def Dev.fillSpoilt (m : Dev) (core : Nat) (w : SkWord) : Bool :=
  (m.lostBehind (match w.comp with | some (e, _) => e | none => w.pa)).isSome || (m.readCause core w).isSome

/-- SEGMENT_FILL_COMPLETE: the words of a filling segment have arrived and the segment is Clean (R147). Where a port or link has failed since, the
requests of the fill are discarded, and the segment is Unfilled for a new touch (R327); so it is where a word reads as poisoned, and the touch takes the
fault (R296). -/
def execSegmentFillComplete (core entry seg : Nat) (s : State) : Host.Outcome State Fault Refusal :=
  onM s fun ft m =>
    let g := m.seg core entry seg
    if g.st != .filling then m
    else if g.words.any (m.fillSpoilt core) then
      (m.modSeg core entry seg fun _ => unfilledSeg).pump ft core
    else ((m.landFill core entry seg).pump ft core).serveOutsideAll ft

/-- The write-back data of a segment reaches its home slices; a segment that was leaving is deregistered, and an entry whose last
segment has left is Free (R152, R155, R157). (DEDUCED, log entry 30.) -/
def Dev.writeBackDone (m : Dev) (core k s : Nat) : Dev :=
  match mget none (m.core core).skeins k with
  | none => m
  | some _ =>
    match (m.seg core k s).wb with
    | none => m
    | some (_, d) =>
      let m1 := m.putBack core d
      let m2 := m1.modSeg core k s fun g => if g.st == .retiring then unfilledSeg else { g with wb := none }
      m2.modCore core fun c =>
        match mget none c.skeins k with
        | some e => if e.leaving && e.segs.all (fun (_, g) => g == unfilledSeg) then { c with skeins := mput none c.skeins k none } else c
        | none => c

/-- An entry that has just become Free is loaded at once with the descriptor that an SKMAP or launch data have checked for it, so that no access meets it in
between (R144, R415). -/
def Dev.loadNext (m : Dev) (ft : Features) (core k : Nat) : Dev :=
  if (mget none (m.core core).skeins k).isSome then m
  else
    match (m.core core).accs.find? fun a => a.desc.isSome && a.v == k with
    | some a => m.settleAcc core a ((accessTry ft core a).go m)
    | none =>
      let load (b : Block) : Option (Nat × Skein) :=
        match b.todo with
        | .loading j d0 d1 d2 d3 :: _ => if j == k then some (b.id, skeinOf d0 d1 d2 d3 b.asid b.id b.winBase) else none
        | _ => none
      match (m.core core).blocks.findSome? load with
      | some (b, e) => m.modCore core fun c => { c with skeins := mput none c.skeins k (some e) }.modBlock b fun y => { y with todo := y.todo.tail }
      | none => m

/-- SEGMENT_WRITE_BACK_DONE: the data reaches the home slices, and what was held at the segment goes on (R152). -/
def execSegmentWriteBackDone (core entry seg : Nat) (s : State) : Host.Outcome State Fault Refusal :=
  onM s fun ft m => (((m.writeBackDone core entry seg).loadNext ft core entry).pump ft core).serveOutsideAll ft

/-- A host's request can come: CXL.mem loads and stores where CXLC is accepted, and the PCIe AtomicOps FetchAdd, Swap and CAS in any case (R320). -/
def Features.hostOp (ft : Features) (o : AgentOp) : Bool :=
  match o with
  | .load => ft.has 4
  | .store _ => ft.has 4
  | .fetchAdd _ => true
  | .swap _ => true
  | .cas _ _ => true
  | _ => false

/-- HOST_MEM_REQUEST: a request of a host to this device's memory: CXL.mem where CXLC is accepted, and PCIe AtomicOps in any case (R320, R322).
(DEDUCED, log entry 74.) (DESIGN CHOICE, log entry 112.) -/
def execHostMemRequest (r : AgentRequest) (s : State) : Host.Outcome State Fault Refusal :=
  hostOp s fun ft m =>
    let up := if r.port = 0 then m.mgmt.port0 == .up else m.mgmt.port1 == .up
    if !(up && ft.hostOp r.op && m.isLocal r.pa && m.backed ft r.pa) then m else m.askOutside ft (.host r.port) r

/-- HOST_SNOOP_RESPONSE: the host answers a back-invalidate snoop and no longer holds the line (R322). -/
def execHostSnoopResponse (block : Nat) (s : State) : Host.Outcome State Fault Refusal :=
  onM s fun ft m =>
    if m.snoops.contains block then
      Dev.serveOutsideAll { m with snoops := m.snoops.filter (· != block), hostHeld := m.hostHeld.filter (· != block) } ft
    else m

/-- The link over which a request for another device's memory goes on, which a device forwards without caching it (R329): none where the route gives
"link lost". -/
def Dev.forwardLink (m : Dev) (ft : Features) (loc : Nat) : Option Nat :=
  if m.linkUp ft loc then mget none m.mgmt.routes (podOf loc) else none

/-- POD_REQUEST: a request of another pod device over Colrok to this device's memory (R330); one for a further device's memory is forwarded along this
device's route table, without a place in its caches, or answered with "link lost" where the route leads nowhere (R329). A request of a pod device, a host or a
service hart to a local offset that no memory backs goes without an answer (R1; DESIGN CHOICE, log entry 112). -/
def execPodRequest (device : Nat) (r : AgentRequest) (s : State) : Host.Outcome State Fault Refusal :=
  hostOp s fun ft m =>
    if !ft.has 5 || !isDevLoc r.pa then m
    else if !m.isLocal r.pa then
      match m.forwardLink ft r.pa with
      | some l => m.modMgmt fun g => { g with forwarded := g.forwarded ++ [(l, device, r)] }
      | none => m.modMgmt fun g => { g with linkLost := g.linkLost ++ [(device, r)] }
    else if !m.backed ft r.pa then m
    else m.askOutside ft (.pod device) r

end Sys2Proof.Machine
end

