-- ==== Sys2Proof/Machine/Image.lean ====
section
/-! DEFINITION. What the device keeps in memory for system software: block images (R35 to R40, R271), the resident-block list and the mirror of the
event vector (R282); and what it takes up of an image that software has written (R34). -/

namespace Sys2Proof.Machine

open Sys2Proof

/-! ### Block images (R35) -/

/-- BSTATE (R36). -/
def BState.code : BState → Nat
  | .running => 0
  | .preempted => 1
  | .stopped => 2
  | .restarting => 3
  | .exited => 4

/-- STATE (R39). -/
def TState.code : TState → Nat
  | .free => 0
  | .ready => 1
  | .memWatch => 2
  | .knot => 3
  | .event => 4
  | .stitch => 5
  | .results => 6
  | .exited => 7

/-- The block header (R36). -/
def headerFields (core : Nat) (b : Block) : List (Nat × Nat × Nat) :=
  [(0x00, 8, b.rec_.lrec.toNat), (0x08, 4, b.bidx.toNat), (0x0C, 4, b.bidy.toNat), (0x10, 4, b.bidz.toNat),
   (0x14, 4, b.rec_.nthr + 2 ^ 12 * b.rec_.cres + 2 ^ 24 * core), (0x18, 8, b.rstLabel.toNat), (0x20, 8, b.rstMask.toNat),
   (0x28, 4, b.restarts.toNat), (0x2C, 4, b.mkp.toNat), (0x30, 8, b.kept), (0x38, 8, b.bst.code)]

/-- A stitch record (R37). -/
def stitchFields (k : Nat) (s : Stitch) : List (Nat × Nat × Nat) :=
  [(0x200 + 32 * k, 8, if s.mask then s.memb.toNat else 0), (0x208 + 32 * k, 8, if s.mask then s.signed.toNat else s.count),
   (0x210 + 32 * k, 8, s.base % 2 ^ 11 + 2 ^ 11 * (s.cnt % 2 ^ 12) + 2 ^ 23 * bit s.mask + 2 ^ 24 * bit s.open_ + 2 ^ 25 * bit s.posted.isSome +
      2 ^ 26 * bit s.decl + 2 ^ 27 * bit s.setr + 2 ^ 32 * s.poster),
   (0x218 + 32 * k, 8, 2 ^ 10 * (s.postPc.toNat / 8 % 2 ^ 54))]

/-- A thread status record (R38), and the comet record of a comet thread (R40). -/
def statusFields (slot : Nat) (t : Thread) : List (Nat × Nat × Nat) :=
  let a := 0x1000 + 32 * slot
  [(a, 8, t.pc.toNat % 2 ^ 57),
   (a + 8, 8, (t.pred ||| 0x80).toNat + 2 ^ 8 * t.stack.length + 2 ^ 16 * t.st.code + 2 ^ 24 * t.sgn.toNat + 2 ^ 40 * bit t.yield + 2 ^ 41 * bit t.comet.isSome),
   (a + 16, 8, t.step.toNat + 2 ^ 32 * (t.tmo.getD 0)), (a + 24, 8, if t.st == .stitch then t.wst else 0)] ++
  match t.comet with
  | some c =>
    let r := 0x11000 + 32 * (slot - 1536)
    [(r, 4, c.cid.toNat), (r + 4, 4, c.cbi.toNat), (r + 8, 4, c.cx.toNat), (r + 12, 4, c.cy.toNat), (r + 16, 4, c.cz.toNat), (r + 20, 4, c.cst.toNat)]
  | none => []

/-- A thread's registers, restart area and call stack (R35). -/
def areaFields (slot : Nat) (t : Thread) : List (Nat × Nat × Nat) :=
  (t.regs.map fun (j, v) => (0x20000 + 256 * slot + 4 * j, 4, v.toNat)) ++ (t.area.map fun (j, v) => (0xA0000 + 256 * slot + 4 * j, 4, v.toNat)) ++
    t.stack.zipIdx.map fun (v, k) => (0x120000 + 256 * slot + 8 * k, 8, v.toNat)

/-- The thread slots that a block uses (R31). -/
def Block.slots (b : Block) : List Nat := List.range b.rec_.nthr ++ (List.range b.rec_.cres).map fun i => 2048 - b.rec_.cres + i

/-- The whole image of a block. -/
def imageFields (core : Nat) (b : Block) : List (Nat × Nat × Nat) :=
  headerFields core b ++ (b.stitches.flatMap fun (k, s) => stitchFields k s) ++
    (b.slots.flatMap fun s => statusFields s (b.thread s) ++ areaFields s (b.thread s)) ++ b.saved.flatMap fun (k, p) => mapFields k p

/-- Writes a block's image back (R33): everything that the image does not name reads as zero. -/
def Dev.writeImage (m : Dev) (ft : Features) (c : Context) (core : Nat) (b : Block) : Dev :=
  let at_ := c.imageAt b.image
  Dev.putFields (if (m.recordCause ft at_).isSome then m else m.clearRecord at_ 0x1B0000) ft c.asid at_ (imageFields core b)

/-- The doublewords from a record on. -/
def Dev.getList (m : Dev) (pa bytes n : Nat) : List Nat := (List.range n).map fun i => m.getRecord (pa + bytes * i) bytes

/-- Words as registers. -/
def regsOf (l : List Nat) : SMap Word := l.zipIdx.foldl (fun g (v, j) => mput 0 g j (BitVec.ofNat 32 v)) []

/-- A thread takes up the RW fields of its image (R34, R38). (DEDUCED, log entry 57.) An SP above 32 counts as 32 (DESIGN CHOICE, log entry 87). -/
def Dev.takeUp (m : Dev) (at_ slot : Nat) (t : Thread) : Thread :=
  let w := m.getRecord (at_ + 0x1000 + 32 * slot + 8) 8
  { t with
    pc := BitVec.ofNat 64 (m.getRecord (at_ + 0x1000 + 32 * slot) 8 % 2 ^ 57 / 8 * 8), pred := BitVec.ofNat 8 w ||| 0x80
    regs := regsOf (m.getList (at_ + 0x20000 + 256 * slot) 4 64), area := regsOf (m.getList (at_ + 0xA0000 + 256 * slot) 4 64)
    stack := (m.getList (at_ + 0x120000 + 256 * slot) 8 (min 32 (bitsOf w 8 6))).map fun v => BitVec.ofNat 64 v }

/-- A block that returns takes up what system software has written in its image since the image was written back (R34); an image that can no longer be
reached changes nothing. (DEDUCED, log entry 57.) -/
def Dev.takeUpBlock (m : Dev) (ft : Features) (c : Context) (b : Block) : Block :=
  let at_ := c.imageAt b.image
  if !b.imaged || (m.recordCause ft at_).isSome then { b with imaged := false }
  else
    { b.slots.foldl (fun (x : Block) s => if (x.thread s).st == .free then x else x.modThread s fun t => m.takeUp at_ s t) b with
      rstLabel := BitVec.ofNat 64 (m.getRecord (at_ + 0x18) 8), rstMask := BitVec.ofNat 64 (m.getRecord (at_ + 0x20) 8), imaged := false }

/-- The registers that a result which is there writes as it arrives, with their values (R76, R77). -/
def Thread.arrivals (t : Thread) (id : Nat) : List (Nat × Word) :=
  match t.pend.find? fun p => p.id == id with
  | some p => match p.val with | some v => p.live v | none => []
  | none => []

/-- The bytes of an image that a result follows: the registers of its thread, where the block's image has been written back (R79). -/
def Dev.followRun (m : Dev) (core blk slot : Nat) : List Run :=
  match m.block core blk with
  | some b => match m.ctx b.asid with | some c => if b.imaged then [(c.imageAt b.image + 0x20000 + 256 * slot, 256)] else [] | none => []
  | none => []

/-- A result that arrives for a thread of a block that is away, and whose image has been written back, goes into the image (R34, R79). -/
def Dev.followImage (m : Dev) (ft : Features) (core blk slot : Nat) (l : List (Nat × Word)) : Dev :=
  match m.block core blk with
  | some b =>
    match m.ctx b.asid with
    | some c => if b.imaged then m.putFields ft b.asid (c.imageAt b.image) (l.map fun (j, v) => (0x20000 + 256 * slot + 4 * j, 4, v.toNat)) else m
    | none => m
  | none => m

/-- PENDING_WRITE_ARRIVE: a variable-latency result arrives in its register or is discarded, and the park may end (R77, R78); where the block is away and its
image has been written back, the image follows (R79). -/
def execPendingWriteArrive (core blk slot id : Nat) (s : State) : Host.Outcome State Fault Refusal :=
  onM s fun ft m =>
    let l := match m.thread core blk slot with | some t => t.arrivals id | none => []
    let act (m : Dev) : Dev := (m.modThread core blk slot fun t => t.arriveId id).followImage ft core blk slot l
    if l.isEmpty then act m else m.onRecords (m.followRun core blk slot) act

/-! ### The status area (R282) -/

/-- The entry of an image slot in the resident-block list. -/
def Dev.listSlot (m : Dev) (ft : Features) (asid slot : Nat) (v : Bool) (resident : Bool) (core : Nat) : Dev :=
  match m.ctx asid with
  | some c => m.report ft asid (c.stat + 0x100 + 8 * slot) [(0, 8, if v then 1 + 2 * bit resident + 2 ^ 8 * core else 0)]
  | none => m

/-- EVENT_MIRROR_WRITE: the mirror in the status area takes the event vector's value (R282). -/
def execEventMirrorWrite (asid : Nat) (s : State) : Host.Outcome State Fault Refusal :=
  onM s fun ft m =>
    match m.ctx asid with
    | some c =>
      if c.events == c.mirror then m
      else m.onRecords [(c.stat, 32)] fun m =>
        (m.report ft asid c.stat ((List.range 4).map fun i => (8 * i, 8, bitsOf c.events.toNat (64 * i) 64))).modCtx asid fun x => { x with mirror := c.events }
    | none => m

/-! ### Write-back of images (R308) -/

/-- CTX_CTL.WB = 1: the images of the selected context's blocks that are not resident are written back; WB reads 1 until that is done. -/
def execCtxWb (s : State) : Host.Outcome State Fault Refusal :=
  hostOp s fun _ m => m.modCtx m.mgmt.ctxSel fun c => { c with wb := true }

/-- The image of a block that is not resident, its skid over, is written back (R33, R308); one that has been written already takes up what system software
has written since, and is written anew. -/
def Dev.imageBack (m : Dev) (ft : Features) (core : Nat) (b : Block) : Dev :=
  match m.ctx b.asid with
  | some c =>
    if (b.bst == .preempted || b.bst == .exited) && b.skid.isNone then
      let b1 := m.takeUpBlock ft c b
      (m.writeImage ft c core b1).modBlock core b.id fun _ => { b1 with imaged := true }
    else m
  | none => m

/-- Lines of a block that has come to the core since displace those of a block that is away: its image is written (R33). -/
def Dev.displace (m : Dev) (ft : Features) (core blk : Nat) : Dev :=
  match m.block core blk with
  | some b => if !b.imaged && b.passed then m.onRecords (m.imageRun b) fun x => x.imageBack ft core b else m
  | none => m

/-- A block comes to a core: the blocks that are away from it may be displaced from now on (R33). -/
def Core.comeTo (c : Core) (blk : Nat) : Core :=
  { c with blocks := c.blocks.map fun b => if b.id != blk && (b.bst == .preempted || b.bst == .exited) then { b with passed := true } else b }

/-- CTX_WB_DONE: the images of the blocks that are not resident have been written back, none of them within its skid any more (R308). -/
def execCtxWbDone (asid : Nat) (s : State) : Host.Outcome State Fault Refusal :=
  onM s fun ft m =>
    match m.ctx asid with
    | some c =>
      if !c.wb || (m.blocksOf asid).any fun (_, b) => b.bst == .preempted && b.skid.isSome then m
      else m.onRecords ((m.blocksOf asid).flatMap fun (_, b) => m.imageRun b) fun m =>
        let m1 := (m.blocksOf asid).foldl (fun (x : Dev) (core, b) => x.imageBack ft core b) m
        m1.modCtx asid fun x => { x with wb := false }
    | none => m

end Sys2Proof.Machine
end

