-- ==== Sys2Proof/Machine/Walker.lean ====
section
/-! DEFINITION. The graph walker: nodes and their checks (R284, R285, R287), the two chains of a context (R286), launch records and launch data
(R289 to R291), the starts and completions of nodes (R288). -/

namespace Sys2Proof.Machine

open Sys2Proof

/-! ### The walker's accesses -/

/-- The charge of the walker's faults: the node's address, and nothing else (R298, R299). -/
def walkerCharge (node : DWord) : Charge := { engine := .walker, core := 0, slot := 0, addr := node, word := 0, info0 := 0, info1 := 0 }

/-- The page of an address of the graph walker: it walks each time (R312, DEDUCED, log entry 54), one of the 64 walks of die 0 at most at once (R313; DESIGN CHOICE,
log entry 109). -/
def walkerPage (ft : Features) (asid va : Nat) (need : Need) : Act Page := do
  if 2 ^ 57 ≤ va then actFault (transFlt 0x10 va need)
  awaitWalk ft 0 asid va
  snoopWalk asid va
  let m ← get
  match m.walk ft asid va with
  | .error c => actFault (transFlt c va need)
  | .ok l =>
    match m.checkLeaf ft l asid va need with
    | .error c => actFault (transFlt c va need)
    | .ok pg => return pg

/-- The walker reads a doubleword. (DEDUCED, log entry 54.) -/
def walkerRead (ft : Features) (asid : Nat) (node : DWord) (va : Nat) : Act Nat := do
  let pg ← walkerPage ft asid va .read
  let l ← homeAccess ft (walkerAgent asid (walkerCharge node)) pg (BitVec.ofNat 64 va) 8 .load
  return ofBytes l

/-- Doublewords from an address on. -/
def walkerReads (ft : Features) (asid : Nat) (node : DWord) (va n : Nat) : Act (List Nat) := do
  let mut out : List Nat := []
  for i in List.range n do
    let v ← walkerRead ft asid node (va + 8 * i)
    out := out ++ [v]
  return out

/-- What an action of the walker leaves: its effect, no change while it waits, or its fault (R284). -/
def Dev.walkerDo (m : Dev) (asid : Nat) (dev : Bool) (node : DWord) (a : Act Unit) : Dev :=
  match a.go m with
  | (.ok _, m1) => m1
  | (.error .wait, m1) => m1
  | (.error (.flt f), m1) => m1.charge asid (walkerCharge node) f (.walker dev)

/-! ### Nodes (R284, R285, R287) -/

/-- Four doublewords as a mask of 256 events. -/
def maskOf (l : List Nat) : BitVec 256 := BitVec.ofNat 256 (l.zipIdx.foldl (fun n (v, i) => n + v * 2 ^ (64 * i)) 0)

/-- A kind's code. -/
def nodeKindOf (k : Nat) : Option NodeKind :=
  match k with
  | 0 => some .kernel
  | 1 => some .cond
  | 2 => some .while_
  | 3 => some .event
  | 4 => some .host
  | 5 => some .end_
  | _ => none

/-- The code of a kind (R306). -/
def NodeKind.code : NodeKind → Nat
  | .kernel => 0
  | .cond => 1
  | .while_ => 2
  | .event => 3
  | .host => 4
  | .end_ => 5

/-- A field that R285 requires to be zero is not. -/
def fieldsBad (k : NodeKind) (opa opb param : Nat) : Bool :=
  match k with
  | .kernel => opb != 0 || param != 0
  | .cond => 16 ≤ param
  | .while_ => param != 0
  | .event => opa != 0 || opb != 0 || param != 0
  | .host => opa != 0 || opb != 0 || 4096 ≤ param
  | .end_ => opa != 0 || opb != 0 || param != 0

/-- A misaligned operand, a bad NS, or ASYNC on another kind than KERNEL (R287, 0x8B). -/
def operandsBad (k : NodeKind) (next opa opb param : Nat) (async : Bool) : Bool :=
  next % 128 != 0 || (async && k != .kernel) ||
    match k with
    | .kernel => opa % 64 != 0
    | .cond => opa % 8 != 0 || opb % 8 != 0 || param % 16 = 0 || 8 < param % 16
    | .while_ => opa % 8 != 0 || opb % 128 != 0
    | _ => false

/-- The node that sixteen doublewords hold, or the field code of the check it fails (R284, R287); of several, the one that the table lists first
(DESIGN CHOICE, log entry 105). -/
def nodeOf (addr : DWord) (d : List Nat) (dev : Bool) : Except Nat Node :=
  let w (i : Nat) : Nat := d.getD i 0
  let rsv := bitsOf (w 0) 57 1 != 0 || bitsOf (w 1) 57 7 != 0 || bitsOf (w 2) 57 7 != 0 || bitsOf (w 3) 16 48 != 0 || (d.drop 12).any fun x => x != 0
  match nodeKindOf (bitsOf (w 0) 60 4) with
  | none => .error 0x8A
  | some k =>
    let opa := bitsOf (w 1) 0 57
    let opb := bitsOf (w 2) 0 57
    let param := bitsOf (w 3) 0 16
    let next := bitsOf (w 0) 0 57
    let async := bitsOf (w 0) 58 1 == 1
    if rsv || fieldsBad k opa opb param then .error 0x8A
    else if operandsBad k next opa opb param async then .error 0x8B
    else if dev && (k == .cond || k == .while_ || k == .end_) then .error 0x8C
    else
      .ok { addr := addr, kind := k, cons := bitsOf (w 0) 59 1 == 1, async := async, next := next, opa := opa, opb := opb, param := param,
            wait := maskOf ((d.drop 4).take 4), set := maskOf ((d.drop 8).take 4) }

/-! ### Chains (R286) -/

/-- A chain at its next node. -/
def chainAt (a : DWord) : Chain := { Fresh.chain with cur := some a }

/-- The main chain takes its next head where it has none; with none queued the context is idle (R283, R286). (DEDUCED, log entry 53.) -/
def Context.takeHead (c : Context) : Context :=
  let live := c.st == .running || c.st == .idle
  if c.main.cur.isSome then c
  else
    match c.heads with
    | h :: r => { c with heads := r, main := chainAt h, st := if live then .running else c.st }
    | [] => { c with st := if live then .idle else c.st }

/-- The chain moves on: the main chain to a successor (0 ends it), the device chain to its next appended node. -/
def Context.advance (c : Context) (dev : Bool) (succ : Nat) : Context :=
  if dev then { c with dev := Fresh.chain }
  else if succ = 0 then { c with main := Fresh.chain }.takeHead
  else { c with main := chainAt (BitVec.ofNat 64 succ) }

/-- The device chain takes the next appended node where it has none (R286). -/
def Context.takeDev (c : Context) : Context :=
  match c.dev.cur, c.devQ with
  | none, d :: r => { c with devQ := r, dev := chainAt d.addr }
  | _, _ => c

/-- A chain's current node that has started and whose kind's action is still to be taken (R285, R286). -/
def Dev.startable (m : Dev) (asid : Nat) (dev : Bool) (kind : NodeKind) : Option Node :=
  match m.ctx asid with
  | some c =>
    let other := c.chain (!dev)
    match (c.chain dev).node with
    | some n =>
      let waits := kind == .kernel && (c.chain dev).behind && other.started && !other.begun && other.kind == some NodeKind.kernel.code
      if m.walks asid && (c.chain dev).started && !(c.chain dev).begun && n.kind == kind && !waits then some n else none
    | none => none
  | none => none

/-- A node completes: its SET bits are set, and the chain moves to the successor (R286). -/
def Dev.nodeEnds (m : Dev) (asid : Nat) (dev : Bool) (n : Node) (succ : Nat) : Dev :=
  (m.setEvents asid n.set).modCtx asid fun c => c.advance dev succ

/-- An appended node's LAUNCH is a release at package scope (R292), cumulative by what its thread had acquired: nothing that it covers is outstanding (R205,
R208, R214). -/
def Dev.appended (m : Dev) (d : DevNode) : Bool :=
  let c := m.core d.core
  d.acq.all (fun (s, k) => !c.accs.any (fun x => x.blk == d.blk && x.slot == s && x.id < k) && c.workDone d.blk s k) &&
  !c.accs.any (fun a => (a.blk == d.blk && a.slot == d.slot && a.id < d.id) || (match a.early with | some k => k < d.id | none => false)) &&
    c.workDone d.blk d.slot d.id && !c.flushing d.blk

/-- The chains with a node to read: the device chain's next is taken once its LAUNCH has released, and the launching core's private lines are written back,
for the walker's reads observe every earlier write of the launching thread (R286, R292; DEDUCED, log entry 95). -/
def Dev.takeNext (m : Dev) (asid : Nat) (dev : Bool) (c : Context) : Option Dev :=
  if !dev then some (m.modCtx asid fun x => x.takeHead)
  else
    match c.dev.cur, c.devQ with
    | none, d :: _ => if m.appended d then some ((m.flushPrivate d.core).modCtx asid fun x => x.takeDev) else none
    | _, _ => some m

/-- A node of sixteen doublewords is checked, and the chains are tested for readiness (R284, R287, R288). -/
def nodeSeen (asid : Nat) (dev : Bool) (a : DWord) (d : List Nat) : Act Unit := do
  let k := some (bitsOf (d.getD 0 0) 60 4)
  match nodeOf a d dev with
  | .error f =>
    modify fun x => x.modCtx asid fun y => y.setChain dev { chainAt a with kind := k }
    actFault (Flt.shape f)
  | .ok n => modify fun x => (x.modCtx asid fun y => y.setChain dev { chainAt a with kind := k, node := some n }).testChains asid

/-- NODE_READ: the walker reads a chain's current node and checks it (R284, R287). -/
def execNodeRead (asid : Nat) (dev : Bool) (s : State) : Host.Outcome State Fault Refusal :=
  onM s fun ft m =>
    match m.ctx asid with
    | none => m
    | some c =>
      if !m.walks asid then m
      else
        match m.takeNext asid dev c with
        | none => m
        | some m1 =>
          match (m1.ctx asid).map fun x => ((x.chain dev).cur, (x.chain dev).node) with
          | some (some a, none) =>
            m1.walkerDo asid dev a do
              let d ← walkerReads ft asid a a.toNat 16
              nodeSeen asid dev a d
          | _ => m

/-! ### Launch records and launch data (R289 to R291) -/

/-- A reserved bit of a launch record is 1 (R289). -/
def recordReserved (w : Nat → Nat) : Bool :=
  bitsOf (w 0) 57 7 != 0 || bitsOf (w 1) 57 7 != 0 || bitsOf (w 2) 57 7 != 0 || bitsOf (w 4) 32 32 != 0 || bitsOf (w 8) 44 20 != 0 ||
    bitsOf (w 8) 10 22 != 0 || bitsOf (w 9) 53 11 != 0 || bitsOf (w 9) 7 25 != 0 || bitsOf (w 10) 49 15 != 0 || bitsOf (w 10) 4 28 != 0 ||
    (List.range 21).any fun i => w (11 + i) != 0

/-- The fields of a record, its launch data aside (R289). -/
def recordOf (w : Nat → Nat) (lrec : Nat) : LaunchRec :=
  { entry := BitVec.ofNat 64 (bitsOf (w 0) 0 57), args := BitVec.ofNat 64 (bitsOf (w 1) 0 57), items := [], gx := bitsOf (w 3) 0 32, gy := bitsOf (w 3) 32 32,
    gz := bitsOf (w 4) 0 32, affinity := BitVec.ofNat 64 (w 5)
    slots := (List.range 8).map fun i => BitVec.ofNat 16 (bitsOf (w (6 + i / 4)) (16 * (i % 4)) 16)
    nthr := bitsOf (w 8) 32 12, cres := bitsOf (w 8) 0 10, stash := bitsOf (w 9) 32 21, amax := bitsOf (w 9) 0 7
    fairwin := if bitsOf (w 10) 32 17 = 0 then 4096 else bitsOf (w 10) 32 17
    plykeep := bitsOf (w 10) 3 1 == 1, nofair := bitsOf (w 10) 2 1 == 1, prio := bitsOf (w 10) 0 2, lrec := BitVec.ofNat 64 lrec }

/-- The check of R291 that a record fails, launch data aside: its field code; of several, the one that the table lists first (DESIGN CHOICE, log entry 105). -/
def recordBad (w : Nat → Nat) (r : LaunchRec) : Option Nat :=
  let fw := bitsOf (w 10) 32 17
  if recordReserved w then some 0x80
  else if r.entry = 0 || r.entry.toNat % 8 != 0 then some 0x81
  else if r.nthr = 0 || 2048 < r.nthr || 512 < r.cres || 2048 < r.nthr + r.cres then some 0x82
  else if 96 < r.amax then some 0x83
  else if 1048576 < r.stash then some 0x84
  else if fw != 0 && (fw < 256 || 65536 < fw) then some 0x85
  else if r.slots.any slotBad then some 0x86
  else if r.gx = 0 || r.gy = 0 || r.gz = 0 then some 0x87
  else if bitsOf (w 2) 0 57 % 8 != 0 then some 0x88
  else none

/-- Doublewords of payload after an item's header (R290). -/
def payloadLen (kind : Nat) : Nat := match kind with | 1 => 4 | 2 => 2 | 3 => 2 | _ => 0

/-- A launch-data item from its header and payload; none where it is malformed (R290). -/
def itemOf (h : Nat) (p : List Nat) : Option LaunchItem :=
  let kind := bitsOf h 60 4
  let num := bitsOf h 0 6
  let argb := bitsOf h 8 1 == 1
  let d (i : Nat) : DWord := BitVec.ofNat 64 (p.getD i 0)
  if bitsOf h 9 51 != 0 || bitsOf h 6 2 != 0 then none
  else
    match kind with
    | 1 => if argb && bitsOf (p.getD 0 0) 0 57 % 8 != 0 then none else some (.skein num argb (d 0) (d 1) (d 2) (d 3))
    | 2 =>
      let v := p.getD 1 0
      let cnt := bitsOf v 11 12
      let mask := bitsOf v 23 1 == 1
      if argb || 16 ≤ num || bitsOf v 24 40 != 0 || (!mask && (cnt = 0 || 2048 < cnt)) then none
      else
        some (.stitch num (if mask then d 0 else 0) (BitVec.ofNat 64 (if mask then 2 ^ 23 + bitsOf v 0 11 else 2 ^ 11 * cnt)))
    | 3 => if argb || num != 0 then none else some (.restart (d 0) (d 1))
    | _ => none

/-- Launch data from an address on: at most 64 items before the end item (R290). -/
def readItems (ft : Features) (asid : Nat) (node : DWord) (va fuel : Nat) : Act (List LaunchItem) := do
  let h ← walkerRead ft asid node va
  if bitsOf h 60 4 = 0 then
    if h != 0 then actFault (Flt.shape 0x88)
    return []
  match fuel with
  | 0 => actFault (Flt.shape 0x88)
  | k + 1 =>
    let n := payloadLen (bitsOf h 60 4)
    let p ← walkerReads ft asid node (va + 8) n
    match itemOf h p with
    | none => actFault (Flt.shape 0x88)
    | some i =>
      let r ← readItems ft asid node (va + 8 + 8 * n) k
      return i :: r

/-- A KERNEL node's record and launch data, read and checked (R289 to R291). -/
def readRecord (ft : Features) (asid : Nat) (n : Node) : Act LaunchRec := do
  let d ← walkerReads ft asid n.addr n.opa 32
  let w (i : Nat) : Nat := d.getD i 0
  let r := recordOf w n.opa
  match recordBad w r with
  | some f => actFault (Flt.shape f)
  | none =>
    let ldata := bitsOf (w 2) 0 57
    if ldata = 0 then return r
    let items ← readItems ft asid n.addr ldata 64
    return { r with items := items }

/-- A launch begins with the next launch sequence (R291). -/
def Dev.begin (m : Dev) (asid : Nat) (dev : Bool) (n : Node) (r : LaunchRec) : Dev :=
  let cap := match m.ctx asid with | some c => c.pcap | none => 0
  let l : Launch :=
    { seq := m.nextLaunch, asid := asid, set := n.set, dev := dev, async := n.async, rec_ := r, prio := min r.prio cap, nextBlock := 0, ended := 0,
      cores := [] }
  let m1 := { m with launches := m.launches ++ [l], nextLaunch := (m.nextLaunch + 1) % 2 ^ 64 }.modCtx asid fun c => c.setChain dev { c.chain dev with begun := true }
  if n.async then m1.modCtx asid fun c => c.advance dev n.next else m1

/-- NODE_KERNEL_START: a KERNEL node that has started checks its record and begins a launch (R286, R291). -/
def execNodeKernelStart (asid : Nat) (dev : Bool) (s : State) : Host.Outcome State Fault Refusal :=
  onM s fun ft m =>
    match m.startable asid dev .kernel with
    | none => m
    | some n => m.walkerDo asid dev n.addr do
      let r ← readRecord ft asid n
      modify fun x => x.begin asid dev n r

/-! ### The other nodes (R285) -/

/-- NODE_COND: the condition word selects the successor (R285, R287). -/
def execNodeCond (asid : Nat) (s : State) : Host.Outcome State Fault Refusal :=
  onM s fun ft m =>
    match m.startable asid false .cond with
    | none => m
    | some n => m.walkerDo asid false n.addr do
      let v ← walkerRead ft asid n.addr n.opa
      if v < n.param % 16 then
        let e ← walkerRead ft asid n.addr (n.opb + 8 * v)
        if e % 128 != 0 || 2 ^ 57 ≤ e then actFault (Flt.shape 0x8B)
        modify fun x => x.nodeEnds asid false n e
      else modify fun x => x.nodeEnds asid false n n.next

/-- NODE_WHILE: a condition word that is not 0 is decremented at its home in one step and the body follows; at 0 the chain goes on (R285). -/
def execNodeWhile (asid : Nat) (s : State) : Host.Outcome State Fault Refusal :=
  onM s fun ft m =>
    match m.startable asid false .while_ with
    | none => m
    | some n => m.walkerDo asid false n.addr do
      let v ← walkerRead ft asid n.addr n.opa
      if v = 0 then modify fun x => x.nodeEnds asid false n n.next
      else
        let pg ← walkerPage ft asid n.opa .both
        let _ ← homeAccess ft (walkerAgent asid (walkerCharge n.addr)) pg (BitVec.ofNat 64 n.opa) 8 (.rmw fun old => if old = 0 then none else some (old - 1))
        modify fun x => x.nodeEnds asid false n n.opb

/-- NODE_EVENT: a started EVENT node completes at once (R285). -/
def execNodeEvent (asid : Nat) (dev : Bool) (s : State) : Host.Outcome State Fault Refusal :=
  onM s fun _ m =>
    match m.startable asid dev .event with
    | none => m
    | some n => m.nodeEnds asid dev n n.next

/-- NODE_HOST: it sends its MSI-X message (R285, R288). -/
def execNodeHost (asid : Nat) (dev : Bool) (s : State) : Host.Outcome State Fault Refusal :=
  onM s fun _ m =>
    match m.startable asid dev .host with
    | none => m
    | some n => (m.interrupt n.param).nodeEnds asid dev n n.next

/-- NODE_END: it ends the main chain, and the next queued head is taken (R285, R286). -/
def execNodeEnd (asid : Nat) (s : State) : Host.Outcome State Fault Refusal :=
  onM s fun _ m =>
    match m.startable asid false .end_ with
    | none => m
    | some n => m.nodeEnds asid false n 0

/-- Blocks of a grid (R291). -/
def LaunchRec.blocks (r : LaunchRec) : Nat := r.gx * r.gy * r.gz

/-- Write-back data of a context's skein entries is on its way from a core. -/
def Core.writingBack (c : Core) (asid : Nat) : Bool :=
  c.skeins.any fun (_, e) => match e with | some s => s.asid == asid && s.segs.any fun (_, g) => g.wb.isSome | none => false

/-- GRID_FINISH: every block of the grid has ended: its events are set, a release at system scope, for which what its cores' skein entries write back reaches its
homes first and the private lines of the cores that ran its blocks are written back (R155, R288; DEDUCED, log entry 95), and a chain that waited for it moves on
(R286, R291). -/
def execGridFinish (asid launch : Nat) (s : State) : Host.Outcome State Fault Refusal :=
  onM s fun _ m =>
    match m.launches.find? fun l => l.seq == launch && l.asid == asid with
    | none => m
    | some l =>
      if l.ended < l.rec_.blocks || !m.live asid || l.cores.any fun i => (m.core i).writingBack asid then m
      else
        let m0 := l.cores.foldl Dev.flushPrivate m
        let m1 := { m0 with launches := m.launches.filter fun x => x.seq != launch }.setEvents asid l.set
        if l.async then m1
        else m1.modCtx asid fun c => match (c.chain l.dev).node with | some n => c.advance l.dev n.next | none => c

end Sys2Proof.Machine
end

