-- ==== Sys2Proof/Machine/Placement.lean ====
section
/-! DEFINITION. Placement (R293 to R295), launch data applied at block start (R290, R456, R460), pre-emption and resumption (R307, R308), the end of a
block (R363). -/

namespace Sys2Proof.Machine

open Sys2Proof

/-! ### What a core has free (R293) -/

/-- The window of a launch: its stash bytes rounded up to whole segments (R137). -/
def LaunchRec.window (r : LaunchRec) : Nat := (r.stash + 63) / 64 * 64

/-- The block holds thread slots of its core: it is on the core, halted there, or still within its skid (R307, R363). -/
def Block.present (b : Block) : Bool := b.bst == .running || b.bst == .stopped || b.bst == .restarting || (b.bst == .preempted && b.skid.isSome)

/-- Thread slots that a block takes (R31). -/
def Block.slotCount (b : Block) : Nat := b.rec_.nthr + b.rec_.cres

/-- Blocks on the core. -/
def Core.residents (c : Core) : List Block := c.blocks.filter Block.present

/-- Free thread slots of the core. -/
def Core.freeSlots (c : Core) : Nat := 2048 - (c.residents.map Block.slotCount).sum

/-- Taken runs of stash bytes: windows, and with `all` also what detached entries cover. -/
def Core.takenRuns (c : Core) (all : Bool) : List (Nat × Nat) :=
  (c.blocks.map fun b => (b.winBase, b.winSize)) ++
    if all then c.skeins.filterMap fun (_, e) =>
      match e with
      | some s => if s.blk.isNone then some (s.lo, 64 * s.segCount) else none
      | none => none
    else []

/-- Where runs may begin: at 0 and at the end of each taken run. -/
def runStarts (taken : List (Nat × Nat)) : List Nat := sortBy (fun a b => decide (a ≤ b)) (0 :: taken.map fun (a, n) => a + n)

/-- The bytes from `p` on that no taken run holds. -/
def runLength (taken : List (Nat × Nat)) (p : Nat) : Nat :=
  if taken.any fun (a, n) => a ≤ p && p < a + n then 0
  else taken.foldl (fun n (a, k) => if p ≤ a && 0 < k then min n (a - p) else n) (1048576 - p)

/-- A run of `n` bytes is free at `p`. -/
def runFree (taken : List (Nat × Nat)) (p n : Nat) : Bool :=
  p + n ≤ 1048576 && !taken.any fun (a, k) => 0 < k && 0 < n && p < a + k && a < p + n

/-- The lowest position of a free run of `n` bytes. -/
def lowestRun (taken : List (Nat × Nat)) (n : Nat) : Option Nat := (runStarts taken).find? fun p => runFree taken p n

/-- The longest free run. -/
def longestRun (taken : List (Nat × Nat)) : Nat := (runStarts taken).foldl (fun n p => max n (runLength taken p)) 0

/-- A detached entry that a window of a launch at `p` attaches (R158). -/
def Skein.attaches (e : Skein) (asid : Nat) (r : LaunchRec) (p : Nat) : Bool :=
  e.blk.isNone && !e.leaving && e.asid == asid && r.affinity != 0 && e.aff == r.affinity && e.win == p && e.soff + 64 * e.segCount ≤ r.window

/-- How many entries a window at `p` attaches. -/
def Core.attachCount (c : Core) (asid : Nat) (r : LaunchRec) (p : Nat) : Nat :=
  (c.skeins.filter fun (_, e) => match e with | some s => s.attaches asid r p | none => false).length

/-- Positions at which some entry attaches and the window fits, with the number that attach, the largest number first and the lowest position among
equals. (DEDUCED, log entry 55.) -/
def Core.attachAt (c : Core) (asid : Nat) (r : LaunchRec) : Option (Nat × Nat) :=
  let ps := sortBy (fun a b => decide (a ≤ b)) (c.skeins.filterMap fun (_, e) =>
    match e with
    | some s => if s.attaches asid r s.win && runFree (c.takenRuns false) s.win r.window then some s.win else none
    | none => none)
  ps.foldl (fun (best : Option (Nat × Nat)) p =>
    let n := c.attachCount asid r p
    match best with
    | some (_, k) => if k < n then some (p, n) else best
    | none => some (p, n)) none

/-- Where the window goes (R294); none where no run of available segments is long enough. (DEDUCED, log entry 55.) -/
def Core.windowAt (c : Core) (asid : Nat) (r : LaunchRec) : Option Nat :=
  match c.attachAt asid r with
  | some (p, _) => some p
  | none =>
    match lowestRun (c.takenRuns true) r.window with
    | some p => some p
    | none => lowestRun (c.takenRuns false) r.window

/-! ### Pending blocks (R293) -/

/-- A pending block: a launch's next one, or one that is away from its core. -/
inductive PendBlock where
  | new (l : Launch)
  | away (core : Nat) (b : Block)
  deriving DecidableEq, Repr

/-- Its place in the order of R293. -/
def PendBlock.key : PendBlock → Nat × Nat × Nat
  | .new l => (l.prio, l.seq, l.nextBlock)
  | .away _ b => b.key

/-- Blocks of a context may be placed: it runs and is not suspended. -/
def Dev.places (m : Dev) (asid : Nat) : Bool := m.live asid && (match m.ctx asid with | some c => !c.susp | none => false)

/-- The partition of a context admits a die. -/
def Dev.admits (m : Dev) (asid die : Nat) : Bool := match m.ctx asid with | some c => c.pmask.getLsbD die | none => false

/-- The blocks pending on a die. -/
def Dev.pendingOn (m : Dev) (ft : Features) (die : Nat) : List PendBlock :=
  ((m.launches.filter fun l => l.nextBlock < l.rec_.blocks && m.places l.asid && m.admits l.asid die).map PendBlock.new) ++
    m.cores.flatMap fun (i, c) =>
      if ft.dieOf i == die then (c.blocks.filter fun b => b.bst == .preempted && b.skid.isNone && m.places b.asid).map (PendBlock.away i) else []

/-- The first pending block of a die (R293). -/
def firstPending (l : List PendBlock) : Option PendBlock :=
  match l with
  | [] => none
  | x :: r => match firstPending r with | some y => some (if keyBefore y.key x.key then y else x) | none => some x

/-- The image slot that a new block takes: the lowest of the pool that no block holds (R280, R293; DESIGN CHOICE, log entry 120). -/
def Dev.freeImage (m : Dev) (c : Context) : Option Nat :=
  let used := (m.blocksOf c.asid).map fun (_, b) => b.image
  (List.range (used.length + 1)).find? fun i => i < c.imgn && !used.contains i

/-- The core can take a new block of a launch: positions, slots, a window, an image slot (R293). -/
def Dev.canTake (m : Dev) (l : Launch) (core : Nat) : Bool :=
  let c := m.core core
  c.residents.length < 16 && l.rec_.nthr + l.rec_.cres ≤ c.freeSlots && (c.windowAt l.asid l.rec_).isSome &&
    match m.ctx l.asid with
    | some x => (m.freeImage x).isSome
    | none => false

/-- What placement compares first to last, greater being better (R294); the lowest core number comes last. -/
def Dev.merit (m : Dev) (l : Launch) (core : Nat) : List Nat :=
  let c := m.core core
  [match c.attachAt l.asid l.rec_ with | some (_, n) => n | none => 0, c.freePhys.length, longestRun (c.takenRuns true), c.freeSlots]

/-- The first list of numbers is the greater. -/
def listAbove (x y : List Nat) : Bool :=
  match x, y with
  | a :: r, b :: s => b < a || (a == b && listAbove r s)
  | _, _ => false

/-- The cores of a die. -/
def Features.coresOf (ft : Features) (die : Nat) : List Nat := (List.range ft.coresPerDie).map fun i => ft.coresPerDie * die + i

/-- The cores that may take a launch's next block: on each die of its partition whose first pending block it is (R293). -/
def Dev.takers (m : Dev) (ft : Features) (l : Launch) : List Nat :=
  (List.range 4).flatMap fun d =>
    if m.admits l.asid d && (m.die d).placing && firstPending (m.pendingOn ft d) == some (.new l) then (ft.coresOf d).filter fun i => m.canTake l i else []

/-- The core that placement chooses (R294). -/
def Dev.chooseCore (m : Dev) (ft : Features) (l : Launch) : Option Nat :=
  ((m.takers ft l).foldl (fun (best : Option (Nat × List Nat)) i =>
    let v := m.merit l i
    match best with
    | some (_, w) => if listAbove v w then some (i, v) else best
    | none => some (i, v)) none).map (·.1)

/-! ### Making room (R295) -/

/-- Resident blocks that may be pre-empted for priority `p`, in the order in which they go: lowest priority first, the youngest first among equals. -/
def Core.victims (c : Core) (p : Nat) : List Block :=
  sortBy (fun a b => a.prio < b.prio || (a.prio == b.prio && b.older a))
    (c.residents.filter fun b => b.bst == .running && !b.over && !b.asked && b.prio < p)

/-- Blocks that have been asked to leave, or are within their skid: their room counts as freed. -/
def Core.leaving (c : Core) : List Block := c.residents.filter fun b => (b.bst == .running && !b.over && b.asked) || b.bst == .preempted

/-- With some blocks gone the core has a position and the thread slots. -/
def Core.roomWithout (c : Core) (gone : List Block) (slots : Nat) : Bool :=
  c.residents.length < 16 + gone.length && slots ≤ c.freeSlots + (gone.map Block.slotCount).sum

/-- The fewest further victims that must go (R295); none where all are not enough. -/
def Core.need (c : Core) (p slots : Nat) : Option Nat :=
  let vs := c.victims p
  (List.range (vs.length + 1)).find? fun k => c.roomWithout (c.leaving ++ vs.take k) slots

/-- The core of a die on which room is made for its first pending block, with the blocks that go (R295). -/
def Dev.makeRoom (m : Dev) (ft : Features) (die : Nat) : Option (Nat × List Block) :=
  match firstPending (m.pendingOn ft die) with
  | none => none
  | some pb =>
    let p := pb.key.1
    let slots := match pb with | .new l => l.rec_.nthr + l.rec_.cres | .away _ b => b.slotCount
    let fits (i : Nat) : Bool := match pb with
      | .new l => ((m.core i).windowAt l.asid l.rec_).isSome && (match m.ctx l.asid with | some x => (m.freeImage x).isSome | none => false)
      | .away j _ => i == j
    let cand := (ft.coresOf die).filterMap fun i => if fits i then ((m.core i).need p slots).map fun k => (i, k) else none
    match cand.foldl (fun (best : Option (Nat × Nat)) e => match best with | some b => if e.2 < b.2 then some e else best | none => some e) none with
    | some (_, 0) => none
    | some (i, k) => some (i, ((m.core i).victims p).take k)
    | none => none

/-- A block is asked to leave its core: the memory bound counts from the request (R307). -/
def Block.ask (b : Block) (lmem : Nat) : Block :=
  { b with asked := true, skid := if b.bst == .running || b.bst == .restarting then some (b.skid.getD lmem) else b.skid }

/-- The request no longer stands. -/
def Block.unask (b : Block) : Block := { b with asked := false, skid := if b.bst == .running || b.bst == .restarting then none else b.skid }

/-- The blocks that R295 names are asked to leave. -/
def Dev.askRoom (m : Dev) (ft : Features) (die : Nat) : Dev :=
  match m.makeRoom ft die with
  | some (i, bs) => bs.foldl (fun x b => x.modBlock i b.id fun y => y.ask m.mgmt.lmem) m
  | none => m

/-! ### Placing (R294) -/

/-- A launch's next block on a core, its threads not yet started. -/
def newBlock (id : Nat) (l : Launch) (win image : Nat) : Block :=
  let i := l.nextBlock
  let r := l.rec_
  { id := id, asid := l.asid, launch := l.seq, index := i, rec_ := r, bidx := BitVec.ofNat 32 (i % r.gx), bidy := BitVec.ofNat 32 (i / r.gx % r.gy),
    bidz := BitVec.ofNat 32 (i / (r.gx * r.gy)), image := image, prio := l.prio, winBase := win, winSize := r.window, bst := .running, rstLabel := 0,
    rstMask := 0, restarts := 0, mkp := 0, tiles := [], plys := [], saved := [], stitches := [], threads := [], cometCount := 0, todo := r.items,
    started := false, abandoned := none, skid := none, imaged := false, passed := false, asked := false }

/-- Entries that the window covers and does not attach, lowest number first (R159). -/
def Core.covered (c : Core) (asid : Nat) (r : LaunchRec) (p : Nat) : List Nat :=
  c.skeins.filterMap fun (k, e) =>
    match e with
    | some s => if s.blk.isNone && !s.attaches asid r p && overlaps s.lo (64 * s.segCount) p r.window then some k else none
    | none => none

/-- The window is made the block's: entries attach (R158), and plain stash is zeroed (R138). -/
def Core.openWindow (c : Core) (asid blk : Nat) (r : LaunchRec) (p : Nat) : Core :=
  let sk := c.skeins.map fun (k, e) => (k, e.map fun s => if s.attaches asid r p then { s with blk := some blk } else s)
  let kept (x : Nat) : Bool := sk.any fun (_, e) => match e with | some s => s.blk == some blk && s.lo ≤ x && x < s.lo + 64 * s.segCount | none => false
  { c with skeins := sk, stash := c.stash.filter fun (x, _) => x < p || p + r.window ≤ x || kept x }

/-- Poison marks of plain stash go with its zeroing; those of attached entries stay (R158). -/
def Dev.cleanWindow (m : Dev) (core p n : Nat) : Dev :=
  { m with poisoned := m.poisoned.filter fun a =>
      !(stashLoc core p ≤ a && a < stashLoc core (p + n)) || ((m.core core).cover (a - stashLoc core 0)).isSome }

/-- The block takes its place: entries in its way are retired first, which placement waits for (R159, R294). (DEDUCED, log entry 20.) -/
def Dev.placeBlock (m : Dev) (ft : Features) (l : Launch) (core : Nat) : Dev :=
  let c := m.core core
  match c.windowAt l.asid l.rec_, m.ctx l.asid with
  | some p, some x =>
    let fresh := !l.cores.contains core
    let inWay := c.covered l.asid l.rec_ p
    if !inWay.isEmpty then
      inWay.foldl (fun y k => if (match mget none (y.core core).skeins k with | some e => e.leaving | none => true) then y else y.leaveEntry core k) m
    else if fresh && c.courses.any (fun y => y.entered && (match c.block y.blk with | some b => b.asid == l.asid | none => false)) then m
    else
      let b := newBlock m.nextId l p ((m.freeImage x).getD 0)
      let m1 := (m.fresh.modCore core fun y =>
        let y1 := if fresh then (y.openWindow l.asid b.id l.rec_ p).dropLines fun a _ => a == l.asid else y.openWindow l.asid b.id l.rec_ p
        { y1.comeTo b.id with blocks := (y1.comeTo b.id).blocks ++ [b], gated := false }).cleanWindow core p l.rec_.window
      let put (y : Launch) : Launch :=
        if y.seq == l.seq then { y with nextBlock := y.nextBlock + 1, cores := if fresh then core :: y.cores else y.cores } else y
      { m1 with launches := m1.launches.map put }.listSlot ft l.asid b.image true true core
  | _, _ => m

/-! ### Launch data applied (R290, R456, R460) -/

/-- A stitch item declares a set, whose phase is open at launch (R51, R290). -/
def declared (memb desc : DWord) : Stitch :=
  let v := desc.toNat
  { Fresh.stitch with decl := true, open_ := true, mask := v.testBit 23, cnt := bitsOf v 11 12, base := bitsOf v 0 11, memb := memb }

/-- An engine's read of a doubleword of any alignment: the aligned doublewords that it touches are asked for one after the other, each with the translation of its
own page (R169, R460). -/
def engReadSplit (ft : Features) (ag : Agent) (core asid va n : Nat) : Act (List Byte) := do
  let k := min n (8 - va % 8)
  let l ← engRead ft ag core asid va k
  if k = n then return l
  let r ← engRead ft ag core asid (va + k) (n - k)
  return l ++ r

/-- A skein item's descriptor is read, its BASE from the argument block where ARGB says so, and checked (R143, R144, R290, R460). A bit above BASE, of the
item or of the doubleword read, counts as a reserved one. (DEDUCED, log entry 56.) -/
def readItem (ft : Features) (core : Nat) (b : Block) (i : LaunchItem) : Act LaunchItem := do
  match i with
  | .skein k argb d0 d1 d2 d3 =>
    let base ← if argb then do
        let va := b.rec_.args.toNat + bitsOf d0.toNat 0 57
        let l ← engReadSplit ft (threadAgent b.asid (b.faultCharge core .simt)) core b.asid va 8
        pure (BitVec.ofNat 64 (2 ^ 57 * bitsOf d0.toNat 57 7) ||| BitVec.ofNat 64 (ofBytes l))
      else pure d0
    let m ← get
    match m.skeinCheck core b.asid b.id k (loadId b.id) base d1 d2 d3 with
    | .error f => actFault f
    | .ok _ => return .loading k base d1 d2 d3
  | i => return i

/-- One item of launch data is applied. (DEDUCED, log entry 56.) -/
def applyItem (core : Nat) (b : Block) (i : LaunchItem) : Act Unit := do
  match i with
  | .skein _ _ _ _ _ _ => pure ()
  | .loading k d0 d1 d2 d3 => putSkein core k (skeinOf d0 d1 d2 d3 b.asid b.id b.winBase)
  | .stitch k memb desc => modify fun m => m.modBlock core b.id fun x => x.modStitch k fun _ => declared memb desc
  | .restart label mask =>
    if label.toNat % 8 != 0 || 2 ^ 57 ≤ label.toNat then actFault (Flt.plain 0x14)
    modify fun m => m.modBlock core b.id fun x => { x with rstLabel := label, rstMask := mask }

/-- The registers of an ordinary thread at its start: the argument pointer in g0 and g1 (R28). -/
def startRegs (args : DWord) : SMap Word := mput 0 (mput 0 [] 0 (args.extractLsb' 0 32)) 1 (args.extractLsb' 32 32)

/-- The threads of a block start (R28, R294); their age counts from here, also where R460 has delayed the start (DESIGN CHOICE, log entry 91). -/
def Block.start (b : Block) : Block :=
  let regs := startRegs b.rec_.args
  let t : Thread := { Fresh.thread with regs := regs, area := regs, pc := b.rec_.entry, st := .ready }
  { b with started := true, todo := [], threads := (List.range b.rec_.nthr).map fun s => (s, t) }

/-- What applying the first item left: the items still to do, or its fault. -/
def Dev.itemStop (m : Dev) (core : Nat) (b : Block) (todo : List LaunchItem) (e : Stop) : Dev :=
  let m1 := m.modBlock core b.id fun x => { x with todo := todo }
  match e with
  | .wait => m1
  | .flt f => m1.blockFault core b .simt f (.argument core b.id)

/-- The items still to do are applied in list order, and then the threads start; a wait or a fault leaves the rest (R460). -/
def Dev.applyItems (m : Dev) (ft : Features) (core blk : Nat) (items : List LaunchItem) : Dev :=
  match items with
  | [] => m.modBlock core blk Block.start
  | i :: r =>
    match m.block core blk with
    | none => m
    | some b =>
      match (readItem ft core b i).go m with
      | (.error e, m1) => m1.itemStop core b (i :: r) e
      | (.ok j, m1) =>
        match (applyItem core b j).go m1 with
        | (.error e, m2) => m2.itemStop core b (j :: r) e
        | (.ok _, m2) => m2.applyItems ft core blk r

/-- The blocks on the core that have been placed, whose threads have not started and whose launch data can go on. -/
def Dev.starting (m : Dev) (core : Nat) : List Block :=
  (m.core core).blocks.filter fun b => !b.started && b.bst == .running && m.live b.asid && !m.suspended b.asid (.argument core b.id)

/-- Blocks that stand placed go on with their launch data (R460). -/
def Dev.startBlocks (m : Dev) (ft : Features) (core : Nat) (l : List Block) : Dev := l.foldl (fun x b => x.applyItems ft core b.id b.todo) m

/-- The launch whose next block placement puts on a core (R293, R294). -/
def Dev.launchFor (m : Dev) (ft : Features) (core : Nat) : Option Launch :=
  match firstPending (m.pendingOn ft (ft.dieOf core)) with
  | some (.new l) => if m.chooseCore ft l == some core then some l else none
  | _ => none

/-- The records that placing a launch's next block writes: its image slot's entry in the resident-block list (R282). -/
def Dev.placeRuns (m : Dev) (l : Launch) : List Run := match (m.ctx l.asid).bind fun c => m.freeImage c with | some i => m.listRun l.asid i | none => []

/-- The die's first pending block is placed on the core that placement chooses; else, where no core can take it, lower-priority blocks are asked to leave
(R294, R295). -/
def Dev.placeNext (m : Dev) (ft : Features) (core : Nat) : Dev :=
  match m.launchFor ft core with
  | some l => m.onRecords (m.placeRuns l) fun m => let m1 := m.placeBlock ft l core; m1.startBlocks ft core (m1.starting core)
  | none =>
    match firstPending (m.pendingOn ft (ft.dieOf core)) with
    | some (.new l) => if (ft.coresOf (ft.dieOf core)).any (fun i => m.canTake l i) || !(m.die (ft.dieOf core)).placing then m else m.askRoom ft (ft.dieOf core)
    | some (.away i b) =>
      if ((m.core i).residents.length < 16 && b.slotCount ≤ (m.core i).freeSlots) || !(m.die (ft.dieOf core)).placing then m
      else m.askRoom ft (ft.dieOf core)
    | none => m

/-- BLOCK_PLACE: blocks that stand placed go on with their launch data; where none of them can start, the die's first pending block is placed
(R294, R295, R460). -/
def execBlockPlace (core : Nat) (s : State) : Host.Outcome State Fault Refusal :=
  onM s fun ft m =>
    if ft.coreCount ≤ core then m
    else
      let m1 := m.startBlocks ft core (m.starting core)
      if (m.starting core).any fun b => (m1.block core b.id).any fun x => x.started then m1 else m1.placeNext ft core

/-! ### Pre-emption (R307, R308) -/

/-- The block has tiles, or matrix operations queued or in flight: its pre-emption restarts it (R238). A word held for a full queue, or a bound operation that
waits in a stitch record, does not count as queued (DESIGN CHOICE, log entry 102). -/
def Core.restarts (c : Core) (b : Block) : Bool :=
  b.holdsTiles || c.matQ.any (fun o => o.org.blk == b.id) || c.matRun.any (fun r => r.op.org.blk == b.id)

/-- The ply unit abandons its operation, and every map leaves Valid (R276, R279); what the block's operations have obtained is free again. -/
def Core.leavePly (c : Core) (blk : Nat) : Core :=
  let clear (o : PlyOp) : PlyOp := if o.org.blk == blk then { o with obtains := false, got := none } else o
  let run := c.plyRun.filter fun o => o.org.blk == blk
  let c1 := { c with plyRun := c.plyRun.filter (fun o => o.org.blk != blk), plyQ := c.plyQ.map clear }
  c1.modBlock blk fun b =>
    let b1 := (List.range 8).foldl (fun x k => c1.dropMap x k) b
    { b1 with abandoned := match run with | some o => some (clear o) | none => b.abandoned.map clear }

/-- The sweep unit's operation of the block stands aside after its iteration (R163, R424). -/
def Core.leaveSweep (c : Core) (blk : Nat) : Core :=
  match c.sweepRun with
  | some o => if o.org.blk == blk then { c with sweepRun := none, sweepAside := c.sweepAside ++ [o] } else c
  | none => c

/-- Something of the block is still in flight: bursts requested, or chunks of accepted copies, all of which may run within the bound of a pre-emption (R250, R307;
DESIGN CHOICE, log entry 116). -/
def Core.inFlight (c : Core) (blk : Nat) : Bool :=
  c.comets.any (fun r => r.org.blk == blk && !r.inFlight.isEmpty) || c.copies.any fun r => r.org.blk == blk && !r.left.isEmpty

/-- An iteration of the block's sweep is completed first (R163). -/
def Dev.inIteration (m : Dev) (core : Nat) (b : Block) : Bool := (m.core core).sweepRun.any fun o => o.org.blk == b.id && m.midIteration core b.asid o

/-- The timers of a block that have reached 0 withdraw their signatures before the block leaves its core (R54). -/
def Dev.signsDue (m : Dev) (core : Nat) (b : Block) : Dev := b.threads.foldl (fun x (s, t) => if t.tmo == some 0 then x.signExpire core b.id s else x) m

/-- The requests of a block's units that stop as it leaves its core: those of its clause fetches and of its ply and sweep operations. -/
def Dev.leaveRequests (m : Dev) (core : Nat) (b : Block) : Dev :=
  m.forget core b.asid fun r => r.fetches b.id || ((m.core core).unitOps b.id false).contains r.op

/-- A block leaves its core, its matrix skid over (R308); `j` is the progress of its matrix operation. -/
def Dev.leaveCore (m1 : Dev) (ft : Features) (core : Nat) (b : Block) (again : Bool) (j : Nat) : Dev :=
  let m2 := ((m1.signsDue core b).leaveRequests core b).modCore core fun c =>
    (((c.dropCourses b.id).leavePly b.id).leaveSweep b.id).dropPrefs fun p => p.org.blk == b.id
  let m3 := match m2.block core b.id with
    | some b2 => if again then m2.restartOr core b2 j (b2.faultCharge core .matrix) 0x1B else m2
    | none => m2
  let m4 := m3.modCore core fun c => c.settleLanded b.id
  let skid := if (m4.core core).inFlight b.id then some (b.skid.getD m4.mgmt.lmem) else none
  (m4.modBlock core b.id fun x => { x with bst := .preempted, skid := skid, asked := false, imaged := false, passed := false }).listSlot ft b.asid b.image true false core

/-- A block leaves its core once the k-block in progress is over (R239, R308). -/
def Dev.preempt (m : Dev) (ft : Features) (core : Nat) (b : Block) : Dev :=
  if (m.core core).restarts b then
    match m.stopMatrix ft core b with
    | (none, m1) => m1
    | (some j, m1) => m1.leaveCore ft core b true j
  else m.leaveCore ft core b false 0

/-- BLOCK_PREEMPT: a block that is asked to leave, and of which no course is inside a clause, is pre-empted within its skids (R304, R308); its kept ply maps go to its
image (R276). -/
def execBlockPreempt (core blk : Nat) (s : State) : Host.Outcome State Fault Refusal :=
  onM s fun ft m =>
    match m.block core blk with
    | some b =>
      if b.asked && (b.bst == .running || b.bst == .restarting) && !b.over && m.live b.asid && !(m.core core).inClause blk && !m.inIteration core b then
        m.onRecords (m.listRun b.asid b.image) fun m => m.withKept ft core fun m => m.preempt ft core b
      else m
    | none => m

/-- SKID_BOUND_EXPIRE: LMEM core cycles after the request, bursts that have not landed are dropped, to be requested again when the block resumes (R258, R307);
those that a fault has suspended stay so (R308). -/
def execSkidBoundExpire (core blk : Nat) (s : State) : Host.Outcome State Fault Refusal :=
  onM s fun _ m =>
    match m.block core blk with
    | some b =>
      if b.skid != some 0 || (b.bst == .running && m.live b.asid) then m
      else
        let kept (r : CometRun) (x : Nat) : Bool := m.live b.asid && m.suspended b.asid (.burst core r.org.id x)
        let ops := ((m.core core).unitOps b.id true)
        ((m.forget core b.asid fun r => ops.contains r.op).modCore core fun c =>
          { c with comets := c.comets.map fun r =>
              if r.org.blk == blk then
                { r with
                  toRequest := sortBy (fun a b => decide (a ≤ b)) (r.inFlight.filter (fun x => !kept r x) ++ r.toRequest)
                  inFlight := r.inFlight.filter (kept r), leaves := [] }
              else r }).modBlock core blk fun x => { x with skid := if m.live b.asid then none else some 0 }
    | none => m

/-- The core as an access waits for it where nothing but a list of accesses is outstanding, and no write-back data is on its way. -/
def Core.waitsFor (c : Core) (l : List Access) : Core :=
  { c with
    accs := l
    skeins := c.skeins.map fun (k, e) => (k, e.map fun s => { s with segs := s.segs.map fun (i, g) => (i, { g with wb := none }) }) }

/-- The accesses of a block that cannot be performed while it is away: suspended ones, and those that wait for them or for operations of the block's queues. -/
def Dev.stuckAccs (m : Dev) (core : Nat) (b : Block) (l : List Access) (fuel : Nat) : List Access :=
  match fuel with
  | 0 => l.filter fun a => m.suspended b.asid (.access core a.id)
  | k + 1 =>
    let c := (m.core core).waitsFor (m.stuckAccs core b l k)
    l.filter fun a => m.suspended b.asid (.access core a.id) || (a.phase == .new && !c.gate { a with wideDone := true } (m.acqOf core a))

/-- A result of the block that its operation has obtained, or that of an access which can be performed while the block is away, has still to land before it
resumes (R79). (DEDUCED, log entry 57.) -/
def Dev.landing (m : Dev) (core : Nat) (b : Block) : Bool :=
  let l := (m.core core).accs.filter fun a => a.blk == b.id
  b.threads.any (fun (_, t) => t.pend.any fun p => p.val.isSome) || (m.stuckAccs core b l l.length).length < l.length

/-- BLOCK_RESUME: a pre-empted block that is its die's first pending one returns to its core, where it fits, once its results have landed (R79, R293, R308). -/
def execBlockResume (core blk : Nat) (s : State) : Host.Outcome State Fault Refusal :=
  onM s fun ft m =>
    match m.block core blk with
    | some b =>
      let c := m.core core
      if firstPending (m.pendingOn ft (ft.dieOf core)) == some (.away core b) && (m.die (ft.dieOf core)).placing && c.residents.length < 16 &&
          b.slotCount ≤ c.freeSlots && !m.landing core b then
        m.onRecords ((if b.imaged then m.imageRun b else []) ++ m.listRun b.asid b.image) fun m =>
        let up := match m.ctx b.asid with | some x => m.takeUpBlock ft x b | none => b
        ((m.modCore core fun x => { x.comeTo blk with gated := false }).modBlock core blk fun _ =>
          { up with bst := .running, passed := false, threads := up.threads.map fun (s, t) => (s, { t with age := 0, overdueAt := none }) }).listSlot ft b.asid b.image true true core
      else m
    | none => m

/-- CTX_CTL.SUSP = 1: every block of the selected context is asked to leave, and its walker stops between nodes (R308). -/
def execCtxSuspend (s : State) : Host.Outcome State Fault Refusal :=
  hostOp s fun _ m =>
    let a := m.mgmt.ctxSel
    (m.blocksOf a).foldl (fun x (core, b) => x.modBlock core b.id fun y => y.ask m.mgmt.lmem) (m.modCtx a fun c => { c with susp := true })

/-- CTX_CTL.SUSP = 0: the context goes on; each block returns as placement allows (R308). What a firmware update has asked to leave still leaves (R336). -/
def execCtxResume (s : State) : Host.Outcome State Fault Refusal :=
  hostOp s fun ft m =>
    let a := m.mgmt.ctxSel
    ((m.blocksOf a).foldl (fun x (core, b) => x.modBlock core b.id fun y => if (m.die (ft.dieOf core)).placing then y.unask else y) (m.modCtx a fun c => { c with susp := false })).testChains a

/-! ### The end of a block (R363) -/

/-- Nothing that the block issued is left: copies, matrix, ply and sweep operations, accesses, write-back data that it has flushed (R155, R288, R291, R363).
(DEDUCED, log entry 59.) -/
def Core.drained (c : Core) (b : Block) : Bool :=
  let mine (o : Origin) : Bool := o.blk == b.id
  !(c.copies.any (fun r => mine r.org) || c.xferQ.any (fun o => mine o.org) || c.comets.any (fun r => mine r.org) || c.matQ.any (fun o => mine o.org) ||
    c.matRun.any (fun r => mine r.op.org) || c.plyQ.any (fun o => mine o.org) || c.plyRun.any (fun o => mine o.org) || b.abandoned.isSome ||
    c.sweepQ.any (fun o => mine o.org) || c.sweepRun.any (fun o => mine o.org) || c.sweepAside.any (fun o => mine o.org) || c.accs.any (fun a => a.blk == b.id) ||
    b.threads.any (fun (_, t) => !t.held.isEmpty) || b.stitches.any (fun (_, s) => !s.backlog.isEmpty) || c.flushing b.id)

/-- The entries attached to a block change state as it ends: with AFF 0, or on destruction, they leave; else they are detached (R157, R283). -/
def Dev.closeEntries (m : Dev) (core blk : Nat) (all : Bool) : Dev :=
  (m.core core).skeins.foldl (fun (x : Dev) (k, e) =>
    match e with
    | some s =>
      if s.blk != some blk then x
      else
        let x1 := x.modCore core fun c => { c with skeins := mput none c.skeins k (some { s with blk := none }) }
        if all || s.aff == 0 then x1.leaveEntry core k else x1
    | none => x) m

/-- A block's tiles, maps, entries, window and image slot are released, and it is gone (R363). -/
def Dev.dropBlock (m : Dev) (ft : Features) (core : Nat) (b : Block) (all : Bool) : Dev :=
  let m1 := (m.modCore core fun c => c.freeTiles b.id).closeEntries core b.id all
  (m1.modCore core fun c => { c with blocks := c.blocks.filter fun x => x.id != b.id, courses := c.courses.filter fun x => x.blk != b.id }).listSlot ft b.asid b.image
    false false 0

/-- BLOCK_END: the end of a block that has exited and of which nothing is left to complete (R363); no name of its is Saved any more (R276).
(DEDUCED, log entry 59.) -/
def execBlockEnd (core blk : Nat) (s : State) : Host.Outcome State Fault Refusal :=
  onM s fun ft m =>
    match m.block core blk with
    | some b =>
      if b.bst == .exited && m.live b.asid && (m.core core).drained b then
        m.onRecords (m.listRun b.asid b.image) fun m => m.withKept ft core fun m =>
        let m1 := m.dropBlock ft core b false
        { m1 with launches := m1.launches.map fun l => if l.seq == b.launch then { l with ended := l.ended + 1 } else l }
      else m
    | none => m

end Sys2Proof.Machine
end

