-- ==== Sys2Proof/Machine/Faults.lean ====
section
/-! DEFINITION. The fault queue and replay (R297 to R302), halting a context with its stop records (R303 to R306, R458, R459), and
destroying a context (R283). -/

namespace Sys2Proof.Machine

open Sys2Proof

/-! ### The fault queue (R298 to R300) -/

/-- A fault entry (R298). (DEDUCED, log entry 51.) -/
def entryFields (f : FaultInfo) (tag ph : Nat) : List (Nat × Nat × Nat) :=
  [(0x00, 8, f.va.toNat % 2 ^ 57),
   (0x08, 8, 2 ^ 56 * f.cause + 2 ^ 53 * f.engine.code + 2 ^ 52 * ph + 2 ^ 51 * bit f.nr + 2 ^ 50 * bit f.alias_ + 2 ^ 49 * bit f.wr +
      2 ^ 40 * (f.core % 256) + 2 ^ 29 * (f.slot % 2048) + tag),
   (0x10, 8, f.addr.toNat), (0x18, 8, f.word.toNat), (0x20, 4, f.info0.toNat), (0x24, 4, f.info1.toNat), (0x28, 8, f.pa % 2 ^ 52),
   (0x30, 8, f.field % 65536), (0x38, 8, f.cyc.toNat)]

/-- The tag that the next suspended operation takes: never 0, none where all 65,535 are in use (R302). (DESIGN CHOICE, log entry 96.) -/
def Context.freeTag (c : Context) : Option Nat :=
  ((List.range (c.tagged.length + 1)).map fun i => (c.nextTag - 1 + i) % 65535 + 1).find? fun t => !c.tagged.any fun x => x.tag == t

/-- The first item that passes a test, and the others. -/
def takeFirst {α : Type} (p : α → Bool) (l : List α) : Option (α × List α) :=
  match l with
  | [] => none
  | x :: r => if p x then some (x, r) else (takeFirst p r).map fun (y, s) => (y, x :: s)

/-- The queue has a free slot (R300). -/
def Context.queueFree (c : Context) : Bool := decide ((c.fqTail - c.fqHead).toNat < 256)

/-- The entry that is written next, with its tag: one that suspends an operation waits for a tag (R302). -/
def Context.nextEntry (c : Context) : Option (FaultInfo × Nat × List FaultInfo) :=
  let t := c.freeTag
  (takeFirst (fun f => f.susp.isNone || t.isSome) c.waiting).map fun (f, r) => (f, if f.susp.isNone then 0 else t.getD 0, r)

/-- The context as an entry is written: it leaves those that wait, the tail advances, and the operation it suspends carries the tag (R302); a watchpoint hit of
that write finds the queue so (R318).
(DEDUCED, log entry 47.) -/
def Context.entryDone (c : Context) (f : FaultInfo) (tag : Nat) : Context :=
  { c with
    waiting := match c.nextEntry with | some (_, _, r) => r | none => c.waiting
    fqTail := c.fqTail + 1, nextTag := if tag = 0 then c.nextTag else tag % 65535 + 1
    tagged := if f.susp.isSome then c.tagged ++ [{ tag := tag, info := f }] else c.tagged }

/-- FAULT_ENTRY_WRITE: a fault's entry is written into the next slot, the tail advances past it, and the interrupt announces it (R298 to R300, R302).
(DEDUCED, log entry 47.) -/
def execFaultEntryWrite (asid : Nat) (s : State) : Host.Outcome State Fault Refusal :=
  onM s fun ft m =>
    match m.ctx asid with
    | none => m
    | some c =>
      match c.queueFree, c.nextEntry with
      | true, some (f, tag, _) =>
        let t := c.fqTail.toNat
        m.onRecords [(c.stat + 0xC000 + 64 * (t % 256), 64)] fun m =>
        let m1 := m.modCtx asid fun x => x.entryDone f tag
        (m1.report ft asid (c.stat + 0xC000 + 64 * (t % 256)) (entryFields f tag (t / 256))).interrupt (bitsOf m.mgmt.intVec.toNat 0 12)
      | _, _ => m

/-- FQ_HEAD: software has read entries (R300, R301). -/
def execFqHeadWrite (v : DWord) (s : State) : Host.Outcome State Fault Refusal :=
  hostOp s fun _ m => m.modCtx m.mgmt.ctxSel fun c => { c with fqHead := v.extractLsb' 0 9 }

/-! ### Replay (R302) -/

/-- A suspended operation is still there to be replayed (R302). -/
def Dev.opExists (m : Dev) (asid : Nat) (x : Susp) : Bool :=
  match x with
  | .access core id => (m.core core).accs.any fun a => a.id == id
  | .fetch core b _ _ => (m.block core b).isSome
  | .watch core b s => (m.thread core b s).any fun t => t.watch.isSome
  | .matrix core id => (m.core core).matRun.any fun r => r.op.org.id == id
  | .sweep core id => ((m.core core).sweepRun.toList ++ (m.core core).sweepAside).any fun o => o.org.id == id
  | .ply core id => ((m.core core).plyRun.toList ++ (m.core core).plyLine).any fun o => o.org.id == id
  | .xfer core id => (m.core core).xferQ.any fun o => o.org.id == id
  | .chunk core copy j => (m.core core).copies.any fun r => r.org.id == copy && r.left.contains j
  | .burst core comet j => (m.core core).comets.any fun r => r.org.id == comet && (r.inFlight.contains j || r.toRequest.contains j)
  | .walker _ => (m.ctx asid).isSome
  | .argument core b => (m.block core b).any fun y => !y.started

/-- A suspended operation goes on from its Fault call; a burst is requested again with REPLAY set (R258). -/
def Dev.resumeOp (m : Dev) (x : Susp) : Dev :=
  match x with
  | .burst core comet burst => m.modCore core fun c => c.modComet comet fun r =>
      { r with
        replayed := burst :: r.replayed, inFlight := r.inFlight.filter (· != burst), faulted := r.faulted.filter (· != burst)
        toRequest := if r.inFlight.contains burst then sortBy (fun a b => decide (a ≤ b)) (burst :: r.toRequest) else r.toRequest }
  | .access core id => m.modAcc core id fun a => if a.phase == .home then { a with phase := .new, leaf := none } else a
  | _ => m

/-- A suspended operation takes the protection fault at its Fault call: an access is not performed, and the context halts.
(DEDUCED, log entry 50.) -/
def Dev.failOp (m : Dev) (asid : Nat) (f : FaultInfo) : Dev :=
  let m1 := match f.susp with
    | some (.access core id) => m.modCore core fun c => { c with accs := c.accs.filter fun a => a.id != id }
    | _ => m
  m1.raise asid { f with cause := 0x10, nr := true, field := 0, susp := none, cyc := if f.engine == .walker then 0 else (m.core f.core).cyc }

/-- A write of FQ_REPLAY: TAG in bits 15:0, ALL bit 16, FAIL bit 17. A tag that names nothing is ignored. (DEDUCED, log entry 50.) -/
def Dev.replay (m : Dev) (asid tag : Nat) (all fail : Bool) : Dev :=
  match m.ctx asid with
  | none => m
  | some c =>
    let named := c.tagged.filter fun t => (all || t.tag == tag) && t.info.susp.any fun x => m.opExists asid x
    let m1 := m.modCtx asid fun x => { x with tagged := x.tagged.filter fun t => !(all || t.tag == tag) }
    (named.foldl (fun x t => if fail then x.failOp asid t.info else match t.info.susp with | some y => x.resumeOp y | none => x) m1).testChains asid

/-- FQ_REPLAY with a tag. -/
def execFqReplay (v : DWord) (s : State) : Host.Outcome State Fault Refusal :=
  hostOp s fun _ m => m.replay m.mgmt.ctxSel (bitsOf v.toNat 0 16) false false

/-- FQ_REPLAY with ALL. -/
def execFqReplayAll (_ : DWord) (s : State) : Host.Outcome State Fault Refusal :=
  hostOp s fun _ m => m.replay m.mgmt.ctxSel 0 true false

/-- FQ_REPLAY with FAIL: the operations named take the protection fault instead. -/
def execFqReplayFail (v : DWord) (s : State) : Host.Outcome State Fault Refusal :=
  hostOp s fun _ m => m.replay m.mgmt.ctxSel (bitsOf v.toNat 0 16) (v.getLsbD 16) true

/-! ### Stop records (R305, R306) -/

/-- Where an engine stood and its progress. -/
structure Stood where
  slot : Nat
  addr : Nat
  word : Nat
  p0 : Nat
  p1 : Nat
  p2 : Nat
  p3 : Nat
  deriving DecidableEq, Repr

/-- An engine that held nothing of the context. -/
def noWork : Stood := { slot := 0, addr := 0, word := 0, p0 := 0, p1 := 0, p2 := 0, p3 := 0 }

/-- An engine that stood at an operation. -/
def Origin.stood (o : Origin) (p0 p1 p2 p3 : Nat) : Stood :=
  { slot := o.slot, addr := o.addr.toNat, word := o.word.toNat, p0 := p0, p1 := p1, p2 := p2, p3 := p3 }

/-- The data address of a fault: of a fetch, none (R305). -/
def FaultInfo.dataVa (f : FaultInfo) : Nat := if f.engine == .fetch then 0 else f.va.toNat

/-- A stop record (R305): with ORIGIN 1 it carries the engine's own fault. -/
def recordFields (primary : FaultInfo) (asid core eng : Nat) (o : Option FaultInfo) (p : Stood) (cyc : Nat) : List (Nat × Nat × Nat) :=
  let f := o.getD primary
  let slot := match o with | some x => x.slot | none => p.slot
  [(0x00, 8, 2 ^ 56 * f.cause + 2 ^ 53 * eng + 2 ^ 52 * bit o.isSome + 2 ^ 40 * (core % 256) + 2 ^ 27 * asid + 2 ^ 16 * (slot % 2048) + f.field % 65536),
   (0x08, 8, match o with | some x => x.addr.toNat | none => p.addr), (0x10, 8, match o with | some x => x.word.toNat | none => p.word),
   (0x18, 8, match o with | some x => x.dataVa | none => 0), (0x20, 4, p.p0), (0x24, 4, p.p1), (0x28, 4, p.p2), (0x2C, 4, p.p3),
   (0x30, 8, cyc), (0x38, 8, 0)]

/-- The engine whose record a fault belongs to: a fetch is the SIMT path's. -/
def Engine.record (e : Engine) : Nat := match e with | .fetch => 0 | e => e.code

/-- The fault is one of this engine of the context's own; a watchpoint hit by a writer outside the context is not. -/
def FaultInfo.ownOf (f : FaultInfo) (asid core eng : Nat) : Bool :=
  f.core == core && f.engine.record == eng && (f.cause != 0x1E || f.info1.toNat == asid)

/-- The fault that an engine's record carries: the primary one where it is this engine's, else the first. -/
def Halt.originOf (h : Halt) (asid core eng : Nat) : Option FaultInfo :=
  if h.faults.contains h.primary && h.primary.ownOf asid core eng then some h.primary else h.faults.find? fun f => f.ownOf asid core eng

/-- An operation of the context on a core. -/
def Core.ofCtx (c : Core) (asid : Nat) (o : Origin) : Bool := match c.block o.blk with | some b => b.asid == asid | none => false

/-- A thread that has not exited. -/
def Thread.here (t : Thread) : Bool := t.st != .free && t.st != .exited

/-- Blocks of a context that run on the core and have a thread that has not exited. -/
def Core.runningOf (c : Core) (asid : Nat) : List Block :=
  c.blocks.filter fun b => b.asid == asid && b.bst == .running && b.threads.any fun (_, t) => t.here

/-- The thread that a SIMT stop record with ORIGIN 0 describes (R459). -/
def Core.stoodThread (c : Core) (asid : Nat) : Option (Nat × Thread) :=
  match firstBlock (c.runningOf asid) with
  | none => none
  | some b =>
    match b.threads.find? fun (_, t) => t.here && t.comet.isNone with
    | some x => some x
    | none => b.threads.find? fun (_, t) => t.here

/-- The header of the clause at an address: from the instruction buffer, else from memory; where it cannot be read, a free value (DESIGN CHOICE, log entry 12). -/
def Dev.headerAt (m : Dev) (ft : Features) (core asid : Nat) (pc : DWord) : Nat :=
  match (m.core core).clause asid pc with
  | some x => x.hdr.toNat
  | none =>
    match (fetchDWord ft core asid (clauseCharge core 0 pc 0 [] none .fetch) pc.toNat).go m with
    | (.ok h, _) => h.toNat
    | (.error _, _) => (Config.freeWord (m.freeCtr + 2 * core + 1) ++ Config.freeWord (m.freeCtr + 2 * core)).toNat

/-- The header that a core's SIMT stop record needs is still waited for: the machine after the attempt. -/
def Dev.headerWaits (m : Dev) (ft : Features) (core asid : Nat) : Option Dev :=
  match (m.core core).stoodThread asid with
  | none => none
  | some (_, t) =>
    if ((m.core core).clause asid t.pc).isSome then none
    else
      match (fetchDWord ft core asid (clauseCharge core 0 t.pc 0 [] none .fetch) t.pc.toNat).go m with
      | (.error .wait, m1) => some m1
      | _ => none

/-- The SIMT path's progress (R306, R459). -/
def Dev.stoodSimt (m : Dev) (ft : Features) (core asid : Nat) (o : Option FaultInfo) : Stood :=
  let c := m.core core
  let ts := (c.runningOf asid).flatMap fun b => b.threads.filter fun (_, t) => t.here
  let n := ts.length
  let k := (ts.filter fun (_, t) => t.comet.isSome).length
  match o with
  | some f => { noWork with p0 := f.pos.toNat, p1 := if f.cause = 0x20 ∨ f.cause = 0x21 then f.info0.toNat else 0, p2 := n, p3 := k }
  | none =>
    match c.stoodThread asid with
    | some (s, t) => { slot := s, addr := t.pc.toNat, word := m.headerAt ft core asid t.pc, p0 := 0xFFFFFFFF, p1 := 0, p2 := n, p3 := k }
    | none => noWork

/-- The matrix unit's: the executing or suspended operation and the queued ones discarded. -/
def Core.stoodMatrix (c : Core) (asid : Nat) : Stood :=
  let n := (c.matQ.filter fun o => c.ofCtx asid o.org).length
  match c.matRun.filter fun r => c.ofCtx asid r.op.org with
  | some r => r.op.org.stood r.j r.op.tile n 0
  | none => { noWork with p2 := n }

/-- The sweep unit's. -/
def Core.stoodSweep (c : Core) (asid : Nat) : Stood :=
  match c.sweepRun.filter fun o => c.ofCtx asid o.org with
  | some o => o.org.stood o.iter o.n 0 0
  | none => noWork

/-- The ply unit's: 1 where an operation is abandoned. (DEDUCED, log entry 52.) -/
def Core.stoodPly (c : Core) (asid : Nat) : Stood :=
  match c.plyRun.filter fun o => c.ofCtx asid o.org with
  | some o => o.org.stood 1 0 0 0
  | none => noWork

/-- The copy engine's: copies unfinished, chunks abandoned where the bound has expired (R307). -/
def Core.stoodCopy (c : Core) (asid : Nat) : Stood :=
  let runs := c.copies.filter fun r => c.ofCtx asid r.org
  let queued := c.xferQ.filter fun o => !o.comet && c.ofCtx asid o.org
  let late := runs.filter fun r => match c.block r.org.blk with | some b => b.skid == some 0 | none => false
  let n := runs.length + queued.length
  let k := (late.map fun r => r.left.length).sum
  match runs, queued with
  | r :: _, _ => r.org.stood n k 0 0
  | [], o :: _ => o.org.stood n k 0 0
  | [], [] => noWork

/-- The comet reads of a core, accepted or queued, in the order in which they entered the transfer queue (R458): origin, id, bursts landed, handlers started,
bursts. -/
def Core.openReads (c : Core) (asid : Nat) : List (Origin × Nat × Nat × Nat × Nat) :=
  let l := ((c.comets.filter fun r => c.ofCtx asid r.org).map fun r => (r.entry, r.org, r.cid, r.landings, r.started, r.bursts)) ++
    (c.xferQ.filter fun o => o.comet && c.ofCtx asid o.org).map fun o => (o.entry, o.org, o.cid, 0, 0, 0)
  (sortBy (fun x y => decide (x.1 ≤ y.1)) l).map fun x => x.2

/-- The comet path's: the read that faulted, else the open read that entered the transfer queue first (R458). -/
def Core.stoodComet (c : Core) (asid : Nat) (o : Option FaultInfo) : Stood :=
  let l := c.openReads asid
  let own := match o with
    | some f => l.find? fun (x : Origin × Nat × Nat × Nat × Nat) => x.1.id == f.op
    | none => l.head?
  match own with
  | some (g, cid, landed, started, n) => g.stood cid landed started n
  | none => noWork

/-- The six engines of a core, codes 0 to 5. -/
def Dev.stoodAt (m : Dev) (ft : Features) (core asid eng : Nat) (o : Option FaultInfo) : Stood :=
  let c := m.core core
  match eng with
  | 0 => m.stoodSimt ft core asid o
  | 1 => c.stoodMatrix asid
  | 2 => c.stoodSweep asid
  | 3 => c.stoodCopy asid
  | 4 => c.stoodComet asid o
  | _ => c.stoodPly asid

/-- The walker's: the chain at whose node its fault arose, else the main chain, else the device chain; the kind of a node that has not been read is a free
value (R306; DESIGN CHOICE, log entry 12). -/
def Context.stoodWalker (c : Context) (o : Option FaultInfo) (free : Nat) : Stood :=
  let l := [c.main, c.dev].filterMap fun (x : Chain) => x.cur.map fun a => (a, x.kind)
  let own := match o with | some f => l.find? fun (x : DWord × Option Nat) => x.1 == f.addr | none => none
  match own.or l.head? with
  | some (a, k) => { noWork with addr := a.toNat, p0 := k.getD free }
  | none => noWork

/-- The kind that the walker's record gives a node that has not been read. -/
def Dev.freeKind (m : Dev) : Nat := (Config.freeWord (m.freeCtr + 512)).toNat

/-- The record of one engine of a core. -/
def Dev.stopRecord (m : Dev) (ft : Features) (h : Halt) (asid core eng : Nat) : List (Nat × Nat × Nat) :=
  let o := h.originOf asid core eng
  recordFields h.primary asid core eng o (m.stoodAt ft core asid eng o) (m.core core).cyc.toNat

/-- The walker's record. -/
def Context.walkerRecord (c : Context) (h : Halt) (free : Nat) : List (Nat × Nat × Nat) :=
  let o := h.originOf c.asid 0 6
  recordFields h.primary c.asid 0 6 o (c.stoodWalker o free) 0

/-- The primary record: a copy of the record of the fault that raised the halt; for a watchpoint it names the writer and the watched address (R305, R459). -/
def Dev.primaryRecord (m : Dev) (ft : Features) (c : Context) (h : Halt) : List (Nat × Nat × Nat) :=
  let f := h.primary
  let e := f.engine.record
  let p := if e = 6 then c.stoodWalker (some f) m.freeKind else m.stoodAt ft f.core c.asid e (some f)
  let p1 := if f.cause = 0x1E then { p with p0 := f.info0.toNat, p1 := 0, p2 := f.pa % 2 ^ 32, p3 := f.pa / 2 ^ 32 } else p
  recordFields f c.asid (if e = 6 then 0 else f.core) e (some f) p1 (if e = 6 then 0 else (m.core f.core).cyc.toNat)

/-! ### The halt (R303, R304) -/

/-- The cores of a context's partition. -/
def Context.partition (c : Context) (ft : Features) : List Nat := (List.range 4).flatMap fun d => if c.pmask.getLsbD d then ft.coresOf d else []

/-- Some member of a course of the context is still inside a clause (R304). -/
def Dev.inSimtSkid (m : Dev) (asid : Nat) : Bool :=
  m.cores.any fun (_, c) => c.courses.any fun x => x.entered && (match c.block x.blk with | some b => b.asid == asid | none => false)

/-- A burst of the context is in flight and may still land (R258, R304). -/
def Dev.inCometSkid (m : Dev) (asid : Nat) : Bool :=
  m.cores.any fun (i, c) => c.comets.any fun r =>
    c.ofCtx asid r.org && r.inFlight.any fun x => !m.suspended asid (.burst i r.org.id x) && !m.failed asid (cometCharge i r.org r.cid x)

/-- A chunk of an accepted copy of the context runs and may still complete within the bound: every chunk that no fault has suspended counts as running
(R304, R307; DEDUCED, log entry 38). -/
def Dev.inCopySkid (m : Dev) (asid : Nat) : Bool :=
  m.cores.any fun (i, c) => c.copies.any fun r =>
    c.ofCtx asid r.org && (match c.block r.org.blk with | some b => m.moving b | none => false) &&
      r.left.any fun j => !m.suspended asid (.chunk i r.org.id j) && !m.failed asid (m.copyCharge i r.org j)

/-- The current iteration of a sweep of the context is not complete (R163, R304). -/
def Dev.inSweepSkid (m : Dev) (asid : Nat) : Bool :=
  m.cores.any fun (i, c) => c.sweepRun.any fun o => c.ofCtx asid o.org && m.midIteration i asid o

/-- The k-block in progress on a core, of a context that halts: it still waits for a read, and the machine after its attempt (R239). -/
def Dev.matrixWaits (m : Dev) (ft : Features) (core asid : Nat) : Option Dev :=
  match (m.core core).matRun with
  | none => none
  | some r =>
    match m.block core r.op.org.blk with
    | none => none
    | some b =>
      if b.asid != asid || r.op.kind == .rd || m.suspended asid (.matrix core r.op.org.id) || m.failed asid (r.charge core) then none
      else
        match (kBlock ft core b r).go m with
        | (.error .wait, m1) => some m1
        | _ => none

/-- The matrix skid of a halt: the k-block in progress completes where its reads and checks succeed; a non-replayable fault of it is raised (R239). -/
def Dev.haltMatrix (m : Dev) (ft : Features) (core asid : Nat) : Dev :=
  match (m.core core).matRun with
  | none => m
  | some r =>
    match m.block core r.op.org.blk with
    | none => m
    | some b =>
      if b.asid != asid || r.op.kind == .rd || m.suspended asid (.matrix core r.op.org.id) || m.failed asid (r.charge core) then m
      else
        match (kBlock ft core b r).go m with
        | (.ok _, m1) => m1.modCore core fun c => { c with matRun := some { r with j := r.j + 1 } }
        | (.error .wait, _) => m
        | (.error (.flt f), _) => if f.nr then m.charge asid (r.charge core) f (.matrix core r.op.org.id) else m

/-- A tile name that is reserved for a request is dropped (R232, R303). -/
def Block.unreserve (b : Block) : Block := { b with tiles := b.tiles.filter fun (_, t) => t != some .reserved }

/-- The words held for a full queue, and the bound operations that wait for one, are discarded as queued ones are (R227, R303). -/
def Block.unhold (b : Block) : Block :=
  { b with
    threads := b.threads.map fun (s, t) => (s, { t with held := [] })
    stitches := b.stitches.map fun (k, s) => (k, if s.backlog.isEmpty then s else { s with bound := .none }) }

/-- What a halt discards on a core: queued and running operations of the context, suspended accesses, requests for tiles (R303, R304). -/
def Core.haltDiscard (c : Core) (asid : Nat) (gone : Access → Bool) : Core :=
  let mine (o : Origin) : Bool := c.ofCtx asid o
  { c with
    matQ := c.matQ.filter (fun o => !mine o.org), matRun := c.matRun.filter (fun r => !mine r.op.org)
    sweepQ := c.sweepQ.filter (fun o => !mine o.org), sweepRun := c.sweepRun.filter (fun o => !mine o.org)
    sweepAside := c.sweepAside.filter (fun o => !mine o.org), plyQ := c.plyQ.filter (fun o => !mine o.org)
    plyRun := c.plyRun.filter (fun o => !mine o.org), xferQ := c.xferQ.filter (fun o => !mine o.org)
    copies := c.copies.filter (fun r => !mine r.org), comets := c.comets.filter (fun r => !mine r.org)
    prefs := c.prefs.filter (fun p => !mine p.org)
    accWaits := c.accWaits.filter (fun w => match c.block w.blk with | some b => b.asid != asid | none => false)
    accs := c.accs.filter (fun a => !(a.asid == asid && gone a))
    courses := c.courses.filter (fun x => match c.block x.blk with | some b => b.asid != asid | none => false)
    blocks := c.blocks.map fun b =>
      if b.asid == asid then
        { b.unreserve.unhold with bst := if b.bst == .running || b.bst == .restarting then .stopped else b.bst, skid := none, asked := false, abandoned := none }
      else b }

/-- CONTEXT_HALT: once courses have left their clauses, bursts have landed or been dropped, chunks and k-blocks in progress are over, every engine's skid ends, the stop records are written, and
what was suspended, queued or running is discarded (R303 to R306). (DEDUCED, log entry 48.) -/
def execContextHalt (asid : Nat) (s : State) : Host.Outcome State Fault Refusal :=
  onM s fun ft m =>
    match m.ctx asid with
    | none => m
    | some c =>
      match c.halt with
      | none => m
      | some h0 =>
        let cores := c.partition ft
        if h0.skidded || m.inSimtSkid asid || m.inCometSkid asid || m.inCopySkid asid || m.inSweepSkid asid then m
        else if let some m1 := cores.findSome? fun i => (m.matrixWaits ft i asid).or (m.headerWaits ft i asid) then m1
        else m.onRecords [(c.stat + 0x8100, 0x80), (c.stat + 0x10000, 512 * ft.coreCount)] fun m =>
          let m1 := cores.foldl (fun x i => x.haltMatrix ft i asid) m
          let h := ((m1.ctx asid).bind fun x => x.halt).getD h0
          let m2 := cores.foldl (fun x i => (List.range 6).foldl (fun y e =>
            y.report ft asid (c.stat + 0x10000 + 512 * i + 64 * e) (m1.stopRecord ft h asid i e)) x) m1
          let m3 := m2.report ft asid (c.stat + 0x8140) (c.walkerRecord h m1.freeKind)
          let m4 := if !h.faults.contains h.primary then m3 else m3.report ft asid (c.stat + 0x8100) (m1.primaryRecord ft c h)
          let drop (e : Nat × Core) : Nat × Core := (e.1, e.2.haltDiscard asid fun a => m.suspended asid (.access e.1 a.id))
          let stop (x : Context) : Context :=
            { x.untag fun _ => true with
              halt := some { h with skidded := true }
              cut := if x.cut.st == .running then { x.cut with st := .aborted } else x.cut }
          let m5 := m4.cores.foldl (fun (x : Dev) e => x.forget e.1 asid fun _ => true) m4
          { m5 with freeCtr := m5.freeCtr + 513, cores := m5.cores.map drop }.modCtx asid stop

/-- What ends with a context: its blocks, resident or not, and its detached entries leave (R283). -/
def Dev.tearDown (m : Dev) (ft : Features) (asid : Nat) : Dev :=
  let m1 := (m.blocksOf asid).foldl (fun x (core, b) => x.dropBlock ft core b true) m
  m1.cores.foldl (fun x (i, c) => c.skeins.foldl (fun y (k, e) =>
    match e with
    | some s => if s.asid == asid && s.blk.isNone && !s.leaving then y.leaveEntry i k else y
    | none => y) x) m1

/-- The resident-block list of a context that is being destroyed, which ending its blocks writes (R282, R283). -/
def Dev.endRuns (m : Dev) (asid : Nat) : List Run :=
  match m.ctx asid with
  | some c => if c.st == .destroying && !(m.blocksOf asid).isEmpty then [(c.stat + 0x100, 0x8000)] else []
  | none => []

/-- A stopped block's image is written back with BSTATE 2 (R33, R303); one that has been written already first takes up what system software has written
since (R34). -/
def Dev.stopImage (m : Dev) (ft : Features) (c : Context) (core : Nat) (b : Block) : Dev :=
  let b1 := m.takeUpBlock ft c b
  (m.writeImage ft c core { b1 with bst := .stopped }).modBlock core b.id fun _ => { b1 with imaged := b.imaged }

/-- HALT_COMPLETE: the block images are written with BSTATE 2, CTX_STATE becomes 3, and the halt interrupt is raised; a context that is being destroyed
goes on to end its blocks (R283, R303). (DEDUCED, log entry 48.) -/
def execHaltComplete (asid : Nat) (s : State) : Host.Outcome State Fault Refusal :=
  onM s fun ft m =>
    match m.ctx asid with
    | none => m
    | some c =>
      match c.halt with
      | none => m
      | some h =>
        if !h.skidded || h.done then m
        else m.onRecords (((m.blocksOf asid).flatMap fun (_, b) => m.imageRun b) ++ m.endRuns asid) fun m =>
          let m1 := (m.blocksOf asid).foldl (fun x (core, b) => x.stopImage ft c core b) m
          let quiet (e : Nat × Core) : Nat × Core := (e.1, { e.2 with accs := e.2.accs.filter fun a => a.asid != asid })
          let ended (x : Context) : Context :=
            { x with st := if x.st == .destroying then .destroying else .halted, halt := some { h with done := true } }
          let m3 := ({ m1 with cores := m1.cores.map quiet }.modCtx asid ended).interrupt (bitsOf m.mgmt.intVec.toNat 16 12)
          if c.st == .destroying then m3.tearDown ft asid else m3

/-! ### Destroying a context (R283) -/

/-- A halt that no fault has raised: no rule gives the cause that its records carry, a free value (DESIGN CHOICE, log entry 12). -/
def destroyHalt (m : Dev) : Halt :=
  { primary :=
      { cause := (Config.freeWord m.freeCtr).toNat % 256, engine := .walker, nr := true, core := 0, slot := 0, va := 0, addr := 0, word := 0, info0 := 0,
        info1 := 0, pa := 0, field := 0, wr := false, alias_ := false, cyc := 0, pos := 0, susp := none }
    faults := [], settled := true, skidded := false, done := false }

/-- A destruction that the device services: the chains are discarded and the context halts, unless it has halted already (R283). -/
def Dev.destroyCtx (m : Dev) (ft : Features) (asid : Nat) : Dev :=
  match m.ctx asid with
  | none => m
  | some c =>
    if c.st == .destroying then m
    else
      let m1 := { m with launches := m.launches.filter (fun l => l.asid != asid), freeCtr := m.freeCtr + 1 }.modCtx asid fun x =>
        { x with
          st := .destroying, main := Fresh.chain, dev := Fresh.chain, heads := [], devQ := []
          halt := some (x.halt.getD (destroyHalt m)) }
      if c.halt.any fun h => h.done then m1.tearDown ft asid else m1

/-- CTX_DESTROY_COMPLETE: its blocks and entries gone and its engines stopped, the context's number is free (R283). -/
def execCtxDestroyComplete (asid : Nat) (s : State) : Host.Outcome State Fault Refusal :=
  onM s fun _ m =>
    match m.ctx asid with
    | none => m
    | some c =>
      let gone := m.cores.all fun (_, x) =>
        !(x.blocks.any fun b => b.asid == asid) && !x.skeins.any fun (_, e) => match e with | some k => k.asid == asid | none => false
      if c.st == .destroying && (c.halt.any fun h => h.done) && gone then { m with ctxs := mput none m.ctxs asid none } else m

end Sys2Proof.Machine
end

