-- ==== Sys2Proof/Machine/HostRegs.lean ====
section
/-! DEFINITION. Registers that the host reaches: features and their lock (R2 to R6), contexts and doorbells (R280 to R283), reads that clear, the
memory-control blocks (R186 to R188), cuts (R309 to R311), the memory bound (R307), shootdowns (R315), watchpoints (R316), plain registers. -/

namespace Sys2Proof.Machine

open Sys2Proof

/-! ### Contexts (R280 to R283) -/

/-- A new context, its first node's address queued where there is one (R280). (DEDUCED, log entry 53.) -/
def newContext (d : Nat → Nat) : Context :=
  let head := bitsOf (d 4) 0 57
  let c : Context :=
    { asid := bitsOf (d 0) 0 13, pmask := BitVec.ofNat 4 (bitsOf (d 0) 17 4), pcap := bitsOf (d 0) 15 2, pool := bitsOf (d 1) 0 52
      imgn := bitsOf (d 2) 0 16, stat := bitsOf (d 3) 0 52, st := .running, main := Fresh.chain, dev := Fresh.chain
      heads := if head = 0 then [] else [BitVec.ofNat 64 head], devQ := [], events := 0, mirror := 0, dropped := 0, dbovf := false
      fqHead := 0x100, fqTail := 0x100, waiting := [], tagged := [], nextTag := 1, halt := none, susp := false, wb := false, wpLost := 0
      cut := Fresh.cut, wps := [] }
  c.takeHead

/-- A reserved bit of the descriptor is set (R280). -/
def descriptorReserved (d : Nat → Nat) : Bool :=
  bitsOf (d 0) 21 43 != 0 || bitsOf (d 0) 13 2 != 0 || bitsOf (d 1) 52 12 != 0 || bitsOf (d 2) 16 48 != 0 || bitsOf (d 3) 52 12 != 0 ||
    bitsOf (d 4) 57 7 != 0 || d 5 != 0 || d 6 != 0 || d 7 != 0

/-- CTX_RES.CODE: the lowest condition that the descriptor breaks, 0 where it breaks none (R281). -/
def descriptorCode (d : Nat → Nat) (used : Bool) : Nat :=
  if descriptorReserved d then 1
  else if used then 2
  else if bitsOf (d 0) 17 4 = 0 then 3
  else if bitsOf (d 2) 0 16 = 0 ∨ 4096 < bitsOf (d 2) 0 16 then 4
  else if bitsOf (d 1) 0 21 ≠ 0 ∨ bitsOf (d 3) 0 16 ≠ 0 ∨ bitsOf (d 4) 0 7 ≠ 0 then 5
  else 0

/-- A creation request is serviced: the descriptor is read once, the outcome reported, and the status area's first part reads as zero (R280 to R282).
What a descriptor that cannot be reached holds is a free value (DESIGN CHOICE, log entry 85). (DEDUCED, log entry 69.) -/
def Dev.createCtx (ft : Features) (m : Dev) (v : DWord) : Dev :=
  let at_ := bitsOf v.toNat 6 46 * 64
  let free (i : Nat) : Nat := (Config.freeWord (m.freeCtr + 2 * i + 1) ++ Config.freeWord (m.freeCtr + 2 * i)).toNat
  let lost := (m.recordCause ft at_).isSome
  let l := (List.range 8).map fun i => if lost then free i else m.getRecord (at_ + 8 * i) 8
  let d (i : Nat) : Nat := l.getD i 0
  let a := bitsOf (d 0) 0 13
  let code := descriptorCode d (m.ctx a).isSome
  let m1 := { m with freeCtr := if lost then m.freeCtr + 16 else m.freeCtr }.modMgmt fun g =>
    { g with ctxResValid := true, ctxResCode := code, ctxResAsid := a }
  if code = 0 then
    let c := newContext d
    let m2 := { m1 with ctxs := mput none m1.ctxs a (some c) }
    match m2.recordCause ft c.stat with
    | some x => m2.recordFault a c.stat x true
    | none => m2.clearRecord c.stat 0x8100
  else m1

/-- A doorbell is serviced: a head is queued, a 65th is discarded and sets DBOVF (R283). (DEDUCED, log entry 53.) -/
def Dev.ringDoorbell (m : Dev) (v : DWord) : Dev :=
  m.modCtx (bitsOf v.toNat 51 13) fun c =>
    if 64 ≤ c.heads.length then { c with dbovf := true }
    else
      let c1 := { c with heads := c.heads ++ [BitVec.ofNat 64 (bitsOf v.toNat 0 50 * 128)] }
      if c.halt.isNone then c1.takeHead else c1

/-- An event write is serviced (R281, R288). -/
def Dev.hostEvent (m : Dev) (v : DWord) : Dev :=
  let a := bitsOf v.toNat 51 13
  if (m.ctx a).isNone then m
  else if v.getLsbD 8 then m.setEvent a (bitsOf v.toNat 0 8)
  else m.clearEvent a (bitsOf v.toNat 0 8)

/-- One write is serviced (R5, R281). -/
def Dev.service (ft : Features) (m : Dev) (w : HeldWrite) : Dev :=
  match w with
  | .ctxCreate v => m.createCtx ft v
  | .ctxDestroy v => m.destroyCtx ft (bitsOf v.toNat 0 13)
  | .graphDb v => m.ringDoorbell v
  | .evHost v => m.hostEvent v

/-- The records that servicing a write reads and writes: a descriptor and the status area that it names, the list of a context that is destroyed. -/
def Dev.serviceRuns (m : Dev) (ft : Features) (w : HeldWrite) : List Run :=
  match w with
  | .ctxCreate v =>
    let at_ := bitsOf v.toNat 6 46 * 64
    if (m.recordCause ft at_).isSome then [] else [(at_, 64), (m.getRecord (at_ + 24) 8 % 2 ^ 52, 0x8100)]
  | .ctxDestroy v =>
    match m.ctx (bitsOf v.toNat 0 13) with
    | some c => if c.halt.any (fun h => h.done) && !(m.blocksOf c.asid).isEmpty then [(c.stat + 0x100, 0x8000)] else []
    | none => []
  | _ => []

/-- An event write is a release of the host at system scope: it waits until the host's requests that arrived before it, numbered below `n`, have been performed
(R288). -/
def Dev.eventWaits (m : Dev) (w : HeldWrite) (n : Nat) : Bool :=
  match w with
  | .evHost _ => m.home.outside.any fun x => decide (x.id < n) && match x.agent with | .host _ => true | _ => false
  | _ => false

/-- Writes are serviced in their order; one that waits holds those behind it (R5, R288, R322). -/
def Dev.serviceQueue (ft : Features) (m : Dev) (l : List (HeldWrite × Nat)) : Dev :=
  match l with
  | [] => { m with heldWrites := [] }
  | x :: r =>
    if m.eventWaits x.1 x.2 || m.recordsWait (m.serviceRuns ft x.1) then { m.askRuns (m.serviceRuns ft x.1) with heldWrites := x :: r }
    else Dev.serviceQueue ft (m.service ft x.1) r

/-- The writes that have come are serviced once the features are locked (R5). -/
def Dev.serviceHeld (m : Dev) (ft : Features) : Dev := if ft.lock then m.serviceQueue ft m.heldWrites else m

/-- A write of one of the four registers: serviced once the features are locked, held in arrival order before (R5). -/
def Dev.hostWrite (m : Dev) (ft : Features) (w : HeldWrite) : Dev :=
  Dev.serviceHeld { m with heldWrites := m.heldWrites ++ [(w, m.nextId)] } ft

/-- CTX_CREATE (R280). -/
def execCtxCreate (v : DWord) (s : State) : Host.Outcome State Fault Refusal := hostOp s fun ft m => m.hostWrite ft (.ctxCreate v)

/-- CTX_DESTROY (R283). -/
def execCtxDestroy (v : DWord) (s : State) : Host.Outcome State Fault Refusal := hostOp s fun ft m => m.hostWrite ft (.ctxDestroy v)

/-- GRAPH_DB (R283). -/
def execGraphDb (v : DWord) (s : State) : Host.Outcome State Fault Refusal := hostOp s fun ft m => m.hostWrite ft (.graphDb v)

/-- EV_HOST with SETB 1 (R281). -/
def execEvHostSet (v : DWord) (s : State) : Host.Outcome State Fault Refusal := hostOp s fun ft m => m.hostWrite ft (.evHost (v ||| 0x100))

/-- EV_HOST with SETB 0 (R281). -/
def execEvHostClear (v : DWord) (s : State) : Host.Outcome State Fault Refusal := hostOp s fun ft m => m.hostWrite ft (.evHost (v &&& ~~~0x100))

/-! ### Features (R2 to R5) -/

/-- A write of DEV_FEAT_ACC (R4): ignored once locked; the ACC bits that the part supports are stored, and LOCK locks that value. -/
def Features.write (ft : Features) (v : DWord) : Features :=
  if ft.lock then ft else { ft with acc := v.extractLsb' 0 6 &&& ft.sup, lock := v.getLsbD 63 }

/-- The write with what it brings about: at the lock, the held writes are serviced in their order (R5). -/
def featWrite (s : State) (v : DWord) : State :=
  if s.m.mgmt.boot == .recovery then s
  else
    let ft := s.feat.write v
    { feat := ft, m := if s.feat.lock then s.m else s.m.serviceHeld ft }

/-- DEV_FEAT_ACC is written (R3, R4). -/
def execDevFeatAccWrite (v : DWord) (s : State) : Host.Outcome State Fault Refusal := .next (featWrite s v)

/-- DEV_FEAT_ACC is written with LOCK 1 (R4, R5). -/
def execFeatLock (v : DWord) (s : State) : Host.Outcome State Fault Refusal := .next (featWrite s (v ||| 0x8000000000000000))

/-! ### Reads that clear (R10, R281, R301) -/

/-- The host's read answers a value. (DESIGN CHOICE, log entry 11.) -/
def Dev.answer (m : Dev) (v : Nat) : Dev := m.modMgmt fun g => { g with readBack := BitVec.ofNat 64 v }

/-- CTX_RES (R281). -/
def execCtxResRead (s : State) : Host.Outcome State Fault Refusal :=
  hostOp s fun _ m =>
    let g := m.mgmt
    (m.answer (2 ^ 63 * bit g.ctxResValid + 2 ^ 56 * g.ctxResCode + g.ctxResAsid)).modMgmt fun g =>
      { g with ctxResValid := false, ctxResCode := 0, ctxResAsid := 0 }

/-- CTX_DROPPED (R193, R281). -/
def execCtxDroppedRead (s : State) : Host.Outcome State Fault Refusal :=
  hostOp s fun _ m =>
    (m.answer (match m.ctx m.mgmt.ctxSel with | some c => c.dropped | none => 0)).modCtx m.mgmt.ctxSel fun c => { c with dropped := 0 }

/-- CTX_STATE.STATE (R281). -/
def CState.code : CState → Nat
  | .none => 0
  | .running => 1
  | .idle => 2
  | .halted => 3
  | .destroying => 4

/-- CTX_STATE: DBOVF clears (R281). -/
def execCtxStateRead (s : State) : Host.Outcome State Fault Refusal :=
  hostOp s fun _ m =>
    (m.answer (match m.ctx m.mgmt.ctxSel with | some c => 16 * bit c.dbovf + c.st.code | none => 0)).modCtx m.mgmt.ctxSel fun c =>
      { c with dbovf := false }

/-- WP_LOST (R318). -/
def execWpLostRead (s : State) : Host.Outcome State Fault Refusal :=
  hostOp s fun _ m =>
    (m.answer (match m.ctx m.mgmt.ctxSel with | some c => c.wpLost | none => 0)).modCtx m.mgmt.ctxSel fun c => { c with wpLost := 0 }

/-! ### Memory-control blocks (R186 to R188) -/

/-- DIR_CTL of a die: REFMAX is kept within 8 to 1,024. -/
def execDirCtlWrite (die : Nat) (v : DWord) (s : State) : Host.Outcome State Fault Refusal :=
  hostOp s fun _ m =>
    if 4 ≤ die then m
    else m.modDie die fun d => { d with aliasf := v.getLsbD 16, refmax := min 1024 (max 8 (bitsOf v.toNat 0 11)) }

/-- HEAT_CTL of a die is written: each miss sequence starts again, HCLR starts a clear. (DEDUCED, log entry 68.) -/
def DieCtl.heatCtl (d : DieCtl) (v : DWord) : DieCtl :=
  { d with on := v.getLsbD 5, kexp := min 16 (bitsOf v.toNat 0 5), hclr := d.hclr || v.getLsbD 8, missSeq := [] }

/-- HEAT_CTL (R186, R187). -/
def execHeatCtlWrite (die : Nat) (v : DWord) (s : State) : Host.Outcome State Fault Refusal :=
  hostOp s fun _ m => if 4 ≤ die then m else m.modDie die fun d => d.heatCtl v

/-- HEAT_CTL is written with HCLR 1, ON and KEXP as they stand (R188). (DEDUCED, log entry 68.) -/
def execHclr (die : Nat) (s : State) : Host.Outcome State Fault Refusal :=
  hostOp s fun _ m => if 4 ≤ die then m else m.modDie die fun d => { d with hclr := true, missSeq := [] }

/-- HEAT_CLEAR_DONE: the table is cleared and HCLR reads 0 (R186). -/
def execHeatClearDone (die : Nat) (s : State) : Host.Outcome State Fault Refusal :=
  onM s fun _ m => if 4 ≤ die || !(m.die die).hclr then m else m.modDie die fun d => { d with hclr := false, heat := [], heatNew := [] }

/-- HEAT[i] is read and cleared; increments of this fabric cycle are not in the count read, and stay (R188). -/
def execHeatRead (die i : Nat) (s : State) : Host.Outcome State Fault Refusal :=
  hostOp s fun _ m =>
    if 4 ≤ die || 65536 ≤ i then m else (m.answer (mget 0 (m.die die).heat i)).modDie die fun d => { d with heat := mput 0 d.heat i 0 }

/-- ALIAS_INFO is read and cleared as a whole; ALIAS_PA keeps its value (R186). -/
def execAliasInfoRead (die : Nat) (s : State) : Host.Outcome State Fault Refusal :=
  hostOp s fun _ m =>
    if 4 ≤ die then m
    else
      let d := m.die die
      (m.answer (2 ^ 63 * bit d.aliasValid + 2 ^ 32 * d.aliasLost + 2 ^ 6 * d.aliasAsid + 4 * d.aliasOld + d.aliasNew)).modDie die fun d =>
        { d with aliasValid := false, aliasLost := 0, aliasAsid := 0, aliasOld := 0, aliasNew := 0 }

/-! ### Cuts (R309 to R311) -/

/-- LIMIT and POD of CUT_CTL. -/
def Cut.control (c : Cut) (v : DWord) : Cut := { c with limit := bitsOf v.toNat 32 32, pod := v.getLsbD 2 }

/-- Every held thread of a context is released (R311). -/
def Dev.releaseHeld (m : Dev) (asid : Nat) (f : Thread → Bool) : Dev :=
  m.mapCtxThreads asid fun _ t => if t.cutHeld && f t then { t with cutHeld := false } else t

/-- CUT_CTL with REQ: a cut starts, unless one runs (R309). -/
def execCutReq (v : DWord) (s : State) : Host.Outcome State Fault Refusal :=
  hostOp s fun _ m =>
    m.modCtx m.mgmt.ctxSel fun c =>
      { c with cut := if c.cut.st == .running then c.cut.control v else { c.cut.control v with st := .running, target := 0, elapsed := 0, agreed := false } }

/-- CUT_CTL with REL: every held thread is released and STATE returns to 0 (R311). -/
def execCutRel (v : DWord) (s : State) : Host.Outcome State Fault Refusal :=
  hostOp s fun _ m =>
    let a := m.mgmt.ctxSel
    (m.releaseHeld a fun _ => true).modCtx a fun c => { c with cut := { c.cut.control v with st := .idle } }

/-- The participants of a cut: ordinary threads that have not exited (R309). -/
def Dev.participants (m : Dev) (asid : Nat) : List Thread :=
  (m.blocksOf asid).flatMap fun (_, b) => (b.threads.map (·.2)).filter fun t => t.comet.isNone && t.here

/-- A participant is held from the moment it leaves the clause that holds its STEP (R419). (DEDUCED, log entry 34.) -/
def Thread.atCut (t : Thread) : Bool := t.cutHeld && !t.inCourse

/-- The cut of a context while it runs. -/
def Dev.cutRuns (m : Dev) (asid : Nat) : Option Cut := ((m.ctx asid).map fun c => c.cut).filter fun c => c.st == .running

/-- CUT_REDUCE: every participant being held, the largest step becomes the target, and those below it are released; with POD the largest of the pod's
other devices counts too, and a reduction that finds the target again confirms it for the whole group (R310, R330; DEDUCED, log entry 61). -/
def execCutReduce (asid : Nat) (podMax : Option Nat) (s : State) : Host.Outcome State Fault Refusal :=
  onM s fun _ m =>
    match m.cutRuns asid with
    | none => m
    | some c =>
      let l := m.participants asid
      if (c.pod && podMax.isNone) || l.any fun t => !t.atCut then m
      else
        let top := l.foldl (fun n t => max n t.step.toNat) (if c.pod then podMax.getD 0 else 0)
        (m.releaseHeld asid fun t => decide (t.step.toNat < top)).modCtx asid fun x =>
          { x with cut := { x.cut with target := BitVec.ofNat 32 top, agreed := x.cut.target == BitVec.ofNat 32 top } }

/-- Copies, comet reads, matrix and ply operations of a block have completed (R310). (DEDUCED, log entry 61.) -/
def Core.enginesQuiet (c : Core) (b : Block) : Bool :=
  let mine (o : Origin) : Bool := o.blk == b.id
  !(c.copies.any (fun r => mine r.org) || c.xferQ.any (fun o => mine o.org) || c.comets.any (fun r => mine r.org) || c.matQ.any (fun o => mine o.org) ||
    c.matRun.any (fun r => mine r.op.org) || c.plyQ.any (fun o => mine o.org) || c.plyRun.any (fun o => mine o.org) || b.abandoned.isSome ||
    b.stitches.any (fun (_, s) => !s.backlog.isEmpty) || b.threads.any fun (_, t) => t.held.any fun h => match h with | .sweep _ => false | .seal _ _ => false | _ => true)

/-- The cut's limit has passed (R311). -/
def Cut.late (c : Cut) : Bool := c.limit != 0 && 1024 * c.limit ≤ c.elapsed

/-- CUT_COMPLETE: every participant, with POD those of the whole group, is held at the target, the engines are quiet, and the limit has not passed: M holds
the target (R310, R311). (DEDUCED, log entry 61.) -/
def execCutComplete (asid : Nat) (s : State) : Host.Outcome State Fault Refusal :=
  onM s fun _ m =>
    match m.cutRuns asid with
    | none => m
    | some c =>
      if !c.late && (!c.pod || c.agreed) && (m.participants asid).all (fun t => t.atCut && t.step == c.target) && (m.blocksOf asid).all fun (i, b) => (m.core i).enginesQuiet b then
        m.modCtx asid fun x => { x with cut := { x.cut with st := .complete, m := c.target } }
      else m

/-- A cut whose limit has passed aborts: every held thread is released and STATE is 3 (R311). -/
def Dev.abortLate (m : Dev) (asid : Nat) : Dev :=
  match m.cutRuns asid with
  | none => m
  | some c => if c.late then (m.releaseHeld asid fun _ => true).modCtx asid fun x => { x with cut := { x.cut with st := .aborted } } else m

/-- CUT_ABORT (R311). -/
def execCutAbort (asid : Nat) (s : State) : Host.Outcome State Fault Refusal := onM s fun _ m => m.abortLate asid

/-! ### The memory bound (R301, R307) -/

/-- LMEM_BOUND: values below 1,000 store 1,000. -/
def execLmemBoundWrite (v : DWord) (s : State) : Host.Outcome State Fault Refusal :=
  hostOp s fun _ m => m.modMgmt fun g => { g with lmem := max 1000 (bitsOf v.toNat 0 16) }

/-! ### Shootdowns (R315) -/

/-- A shootdown is queued; a 17th is discarded and sets OVF. -/
def Mgmt.queueShootdown (g : Mgmt) (x : Shootdown) : Mgmt :=
  if 16 ≤ g.sdQueue.length then { g with sdOvf := true } else { g with sdQueue := g.sdQueue ++ [x] }

/-- SD_CTL with ALLA 0: NPG pages from SD_VA. -/
def execShootdownRange (v : DWord) (s : State) : Host.Outcome State Fault Refusal :=
  hostOp s fun _ m => m.modMgmt fun g =>
    g.queueShootdown { asid := bitsOf v.toNat 51 13, all := false, va := g.sdVa.toNat, npg := bitsOf v.toNat 0 32 }

/-- SD_CTL with ALLA 1: the whole address space. -/
def execShootdownAll (v : DWord) (s : State) : Host.Outcome State Fault Refusal :=
  hostOp s fun _ m => m.modMgmt fun g => g.queueShootdown { asid := bitsOf v.toNat 51 13, all := true, va := 0, npg := 0 }

/-- The shootdown's range meets [va, va + n). -/
def Shootdown.meets (x : Shootdown) (va n : Nat) : Bool := x.all || (x.va < va + n && va < x.va + 4096 * x.npg)

/-- A cached translation that a shootdown drops, whole (R315). -/
def Shootdown.drops (x : Shootdown) (e : TlbEntry) : Bool := e.asid == x.asid && x.meets e.leaf.page (2 ^ e.log)

/-- A virtual address of the range or of a page that is dropped on a core. -/
def Shootdown.covers (x : Shootdown) (c : Core) (va n : Nat) : Bool :=
  x.meets va n || c.tlb.any fun e => x.drops e && e.leaf.page < va + n && va < e.leaf.page + 2 ^ e.log

/-- A line of the instruction buffer that holds code of the pages. -/
def Shootdown.codeLine (x : Shootdown) (c : Core) (asid line : Nat) : Bool := asid == x.asid && x.covers c (128 * line) 128

/-- The virtual address of a word that a segment holds. -/
def Skein.wordVa (e : Skein) (w : SkWord) : Nat := e.vaOf ((w.at_ - e.lo) / 4)

/-- Segments of a core that hold words of the range: entry and segment (R154). -/
def Shootdown.segs (x : Shootdown) (c : Core) : List (Nat × Nat × Seg) :=
  c.skeins.flatMap fun (k, e) =>
    match e with
    | some s =>
      if s.asid == x.asid then
        (s.segs.filter fun (_, g) => g.st != .unfilled && g.words.any fun w => x.covers c (s.wordVa w) 4).map fun (i, g) => (k, i, g)
      else []
    | none => []

/-- A core keeps a shootdown waiting: a course uses a clause of the pages (R48), an access or a burst translated through a dropped entry is under way and
no fault has suspended it, or a segment is being filled or written back (R152, R315). (DEDUCED, log entry 62.) -/
def Dev.shootWaits (m : Dev) (x : Shootdown) (core : Nat) : Bool :=
  let c := m.core core
  let uses (y : Course) : Bool :=
    match c.block y.blk with
    | some b => (c.clause b.asid y.addr).any fun z => z.lines.any fun l => x.codeLine c b.asid l
    | none => false
  let under (a : Access) : Bool := a.leaf.any x.drops && !m.suspended a.asid (.access core a.id)
  let burst (r : CometRun) : Bool := r.leaves.any fun e => x.drops e.2.2 && r.inFlight.contains e.1 && !m.suspended x.asid (.burst core r.org.id e.1)
  c.courses.any uses || c.accs.any under || c.comets.any burst ||
    (x.segs c).any fun (_, _, g) => g.st == .filling || g.st == .retiring || g.wb.isSome

/-- A shootdown's steps 1 to 4 on one core (R315): its segments are written back and Unfilled, its L1 lines of pages that are not coherent are written
back and discarded, lines of code and translations are dropped. (DEDUCED, log entry 20; DEDUCED, log entry 62.) -/
def Dev.shootCore (m : Dev) (x : Shootdown) (core : Nat) : Dev :=
  let c := m.core core
  let m1 := (x.segs c).foldl (fun (y : Dev) (k, s, _) => (y.putBack core (y.segData core k s)).modSeg core k s fun _ => unfilledSeg) m
  (m1.dropL1 core fun _ b => b.cc != 2).modCore core fun y =>
    { y.dropLines (fun a l => x.codeLine c a l) with tlb := y.tlb.filter fun e => !x.drops e }

/-- L2 lines of pages that are not coherent, and the copies in slices of other dies, are written back and discarded (R174, R177, R315); a stranded line
stays. -/
def Dev.shootL2 (m : Dev) : Dev :=
  let test (b : Option L2Block) : Bool := match b with | some y => y.cls != 2 | none => false
  (m.l2.filter fun (_, b) => test b).foldl (fun (y : Dev) e => y.dropL2 e.1) { m with far := [] }

/-- SHOOTDOWN_PERFORM: the oldest queued shootdown is performed, and DONE counts it (R315). -/
def execShootdownPerform (s : State) : Host.Outcome State Fault Refusal :=
  onM s fun _ m =>
    match m.mgmt.sdQueue with
    | [] => m
    | x :: q =>
      let done (m : Dev) : Dev := m.modMgmt fun g => { g with sdQueue := q, sdDone := g.sdDone + 1 }
      if !x.all && x.npg = 0 then done m
      else if m.cores.any fun (i, _) => m.shootWaits x i then m
      else done ((m.cores.foldl (fun y (i, _) => y.shootCore x i) m).shootL2)

/-- SD_STAT.OVF is cleared by writing 1 (R301). -/
def execSdStatOvfClear (s : State) : Host.Outcome State Fault Refusal := hostOp s fun _ m => m.modMgmt fun g => { g with sdOvf := false }

/-! ### Watchpoints (R316, R317) -/

/-- Dirty L1 bytes of watched lines go to their home slices, so that no line is dirty outside it (R317). -/
def Dev.watchLines (m : Dev) (w : Watchpoint) : Dev :=
  let (b, n) := w.range
  m.cores.foldl (fun x (i, _) => x.dropL1 i fun a _ => a % 2 ^ 52 / 128 * 128 < b + n && b < a % 2 ^ 52 / 128 * 128 + 128) m

/-- WP_CTL(n): EN, HALT and SZ, values above 9 storing 9 (R301, R316). -/
def execWpCtlWrite (n : Nat) (v : DWord) (s : State) : Host.Outcome State Fault Refusal :=
  hostOp s fun _ m =>
    match m.ctx m.mgmt.ctxSel with
    | none => m
    | some c =>
      if 16 ≤ n then m
      else
        let w : Watchpoint :=
          { mget Fresh.wp c.wps n with en := v.getLsbD 63, halt := v.getLsbD 62, sz := min 9 (bitsOf v.toNat 0 4) }
        (if w.en then m.watchLines w else m).modCtx m.mgmt.ctxSel fun c => { c with wps := mput Fresh.wp c.wps n w }

/-! ### Plain registers (R10, R281, R301, R332) -/

/-- A doubleword of KEY_DATA is written (R332). -/
def Mgmt.putKeyData (g : Mgmt) (i : Nat) (v : DWord) : Mgmt :=
  let old := g.keyData.toNat
  { g with keyData := BitVec.ofNat 512 (old - bitsOf old (64 * i) 64 * 2 ^ (64 * i) + v.toNat * 2 ^ (64 * i)) }

/-- The fields of STRAND_CTL that hold what is written (R332). -/
def Mgmt.strandFields (g : Mgmt) (v : DWord) : Mgmt :=
  { g with strandPort := v.getLsbD 8, strandLinks := v.getLsbD 7, strandLnk := bitsOf v.toNat 3 4 }

/-- A register whose fields only hold what is written; every other offset is read-only, or its write is a step of its own. -/
def Mgmt.put (g : Mgmt) (off : Nat) (v : DWord) : Mgmt :=
  if off = 0x228 then { g with ctxSel := bitsOf v.toNat 0 13 }
  else if off = 0x280 then { g with ttBase := BitVec.ofNat 64 (bitsOf v.toNat 16 36 * 2 ^ 16) }
  else if off = 0x288 then { g with sdVa := BitVec.ofNat 64 (bitsOf v.toNat 12 45 * 4096) }
  else if off = 0x410 then g.strandFields v
  else if off = 0x418 then { g with intVec := v &&& 0x0FFF0FFF0FFF0FFF }
  else if 0x440 ≤ off ∧ off < 0x480 ∧ off % 8 = 0 then g.putKeyData ((off - 0x440) / 8) v
  else if off = 0x508 then { g with fwImg := BitVec.ofNat 64 (bitsOf v.toNat 12 40 * 4096) }
  else if 0x10000 ≤ off ∧ off < 0x12000 ∧ off % 2 = 0 then
    let n := (off - 0x10000) / 2
    { g with
      routes := mput none g.routes n (if v.getLsbD 15 then some (bitsOf v.toNat 0 4) else none)
      routeLnk := mput 0 g.routeLnk n (if v.getLsbD 15 then 0 else bitsOf v.toNat 0 4), routesLost := g.routesLost.filter (· != n) }
  else g

/-- REGISTER_WRITE: a register whose fields hold what is written; of the selected context, WP_ADDR(n) and the fields of CUT_CTL (R281, R301, R332). -/
def execRegisterWrite (off : Nat) (v : DWord) (s : State) : Host.Outcome State Fault Refusal :=
  hostOp s fun _ m =>
    if 0x2A0 ≤ off ∧ off < 0x3A0 ∧ off % 16 = 0 then
      let n := (off - 0x2A0) / 16
      match m.ctx m.mgmt.ctxSel with
      | none => m
      | some c =>
        let w : Watchpoint := { mget Fresh.wp c.wps n with pa := BitVec.ofNat 64 (bitsOf v.toNat 3 49 * 8) }
        (if w.en then m.watchLines w else m).modCtx m.mgmt.ctxSel fun c => { c with wps := mput Fresh.wp c.wps n w }
    else if off = 0x268 then m.modCtx m.mgmt.ctxSel fun c => { c with cut := c.cut.control v }
    else m.modMgmt fun g => g.put off v

/-! ### Reads without an effect (R10, R281, R301, R332) -/

/-- CUT_STAT.STATE (R301). -/
def CutState.code : CutState → Nat
  | .idle => 0
  | .running => 1
  | .complete => 2
  | .aborted => 3

/-- The state codes of HP_STAT and CR_STAT (R332). -/
def LinkState.code : LinkState → Nat
  | .down => 0
  | .training => 1
  | .up => 2

/-- CTX_CTL.SUSPD: the context is suspended and every block of it is pre-empted (R301, R308). -/
def Dev.suspensionDone (m : Dev) (c : Context) : Bool :=
  c.susp && (m.blocksOf c.asid).all fun (_, b) => (b.bst == .preempted && b.skid.isNone) || b.over

/-- A register of the context that CTX_SEL names (R301). The W1S bits REQ and REL read 0 from the write on (DESIGN CHOICE, log entry 97). -/
def Dev.contextRegister (m : Dev) (c : Context) (off : Nat) : Nat :=
  if off = 0x240 then c.fqHead.toNat
  else if off = 0x248 then c.fqTail.toNat
  else if off = 0x258 then 2 ^ 10 * bit (m.suspensionDone c) + 2 * bit c.susp + bit c.wb
  else if off = 0x268 then 2 ^ 32 * c.cut.limit + 4 * bit c.cut.pod
  else if off = 0x270 then 2 ^ 62 * c.cut.st.code + c.cut.m.toNat
  else if 0x2A0 ≤ off ∧ off < 0x3A0 ∧ off % 16 = 0 then (mget Fresh.wp c.wps ((off - 0x2A0) / 16)).pa.toNat
  else if 0x2A0 ≤ off ∧ off < 0x3A0 ∧ off % 16 = 8 then
    let w := mget Fresh.wp c.wps ((off - 0x2A8) / 16)
    2 ^ 63 * bit w.en + 2 ^ 62 * bit w.halt + w.sz
  else 0

/-- The stranded lines of 128 bytes that slices hold of the ports or links that a test names (R327, R332). -/
def Dev.strandedLines (m : Dev) (f : Nat → Bool) : Nat :=
  (m.l2.map fun (_, b) => match b with | some x => if f x.port then x.stranded.length else 0 | none => 0).sum

/-- ROUTE(n) as it reads (R332). -/
def Mgmt.route (g : Mgmt) (n : Nat) : Nat := match mget none g.routes n with | some l => 2 ^ 15 + l | none => mget 0 g.routeLnk n

/-- A register of links, keys and firmware (R332). The W1S bits WB, DISC and GO read 0 from the write on, also while BUSY is 1 (DESIGN CHOICE, log entry 97). -/
def Dev.serviceRegister (m : Dev) (off : Nat) : Nat :=
  let g := m.mgmt
  if off = 0x400 then 2 ^ 63 * bit g.podSet + g.podDev
  else if off = 0x408 then 2 ^ 32 * min 0xFFFF (m.strandedLines (· < 2)) + 2 ^ 16 * bit g.strandTimer + 2 ^ 8 * g.port1.code + g.port0.code
  else if off = 0x410 then 2 ^ 63 * bit g.strandBusy.isSome + 2 ^ 8 * bit g.strandPort + 2 ^ 7 * bit g.strandLinks + 2 ^ 3 * g.strandLnk
  else if off = 0x418 then g.intVec.toNat
  else if off = 0x420 then 2 ^ 63 * bit g.keyBusy
  else if 0x480 ≤ off ∧ off < 0x500 ∧ off % 8 = 0 then
    let l := (off - 0x480) / 8
    let x := mget Fresh.link g.links l
    2 ^ 16 * x.peer + 2 ^ 8 * bit (m.strandedLines (· == 2 + l) != 0) + x.st.code
  else if off = 0x500 then g.fwVer.toNat
  else if off = 0x508 then g.fwImg.toNat
  else if off = 0x510 then 2 ^ 63 * bit g.fwBusy.isSome + 16 * g.fwDone.toNat + g.fwCode
  else if 0x10000 ≤ off ∧ off < 0x12000 ∧ off % 2 = 0 then g.route ((off - 0x10000) / 2)
  else 0

/-- A register of a memory-control block (R186). -/
def DieCtl.register (d : DieCtl) (off : Nat) : Nat :=
  if off = 0 then 2 ^ 16 * bit d.aliasf + d.refmax
  else if off = 8 then 2 ^ 8 * bit d.hclr + 2 ^ 5 * bit d.on + d.kexp
  else if off = 0x10 then d.aliasPa.toNat
  else 0

/-- What a read of a register of BAR0 answers: RO and RW fields, and the W1S bits that stand while their work goes on; WO fields and reserved bits read
0 (R10). While CTX_SEL names no context, FQ_HEAD and FQ_TAIL read as they do at reset, 0x100, and the other registers of a context read 0 (R300; DESIGN CHOICE,
log entry 106). -/
def Dev.registerValue (m : Dev) (ft : Features) (off : Nat) : Nat :=
  let g := m.mgmt
  if off = 0x40 then ft.sup.toNat
  else if off = 0x48 then 2 ^ 63 * bit ft.lock + ft.acc.toNat
  else if off = 0x228 then g.ctxSel
  else if off = 0x278 then g.lmem
  else if off = 0x280 then g.ttBase.toNat
  else if off = 0x288 then g.sdVa.toNat
  else if off = 0x298 then 2 ^ 32 * bit g.sdOvf + g.sdDone.toNat
  else if 0x240 ≤ off ∧ off < 0x400 then (match m.ctx g.ctxSel with | some c => m.contextRegister c off | none => if off = 0x240 ∨ off = 0x248 then 0x100 else 0)
  else if 0x100000 ≤ off ∧ off < 0x200000 then (m.die ((off - 0x100000) / 0x40000)).register ((off - 0x100000) % 0x40000)
  else m.serviceRegister off

/-- A register whose read clears it: its read is a step of the table (R10). -/
def readClears (off : Nat) : Bool :=
  off == 0x210 || off == 0x230 || off == 0x238 || off == 0x260 ||
    (0x100000 ≤ off && off < 0x200000 && ((off - 0x100000) % 0x40000 == 0x18 || 0x20000 ≤ (off - 0x100000) % 0x40000))

/-- A host reads a register whose read has no effect; a device in recovery answers FW_STAT alone (R10, R335). -/
def Dev.readRegister (m : Dev) (ft : Features) (off : Nat) : Dev :=
  if readClears off || (m.mgmt.boot == .recovery && off != 0x510) then m else m.answer (m.registerValue ft off)

end Sys2Proof.Machine
end

