-- ==== Sys2Proof/Machine/Integer.lean ====
section
/-! DEFINITION. The integer words of class 0 (R337 and the entries ABS to XOR), the moves (R389, R390), LEA (R384) and NOP, PFX,
YIELD, which touch no value. -/

namespace Sys2Proof.Machine

open Sys2Proof

/-- NOP: no effect but the park marker's (R394). -/
def execNop (c : Ctl) (_ : RRR) (s : State) : Host.Outcome State Fault Refusal := regWord c s fun _ t => t

/-- PFX: no effect of its own; the next word takes its immediate as extension (R89, R397). -/
def execPfx (c : Ctl) (_ : RI) (s : State) : Host.Outcome State Fault Refusal := regWord c s fun _ t => t

/-- YIELD: sets the yield mark (R433). -/
def execYield (c : Ctl) (_ : RRR) (s : State) : Host.Outcome State Fault Refusal := regWord c s fun _ t => { t with yield := true }

/-- ADD (R343). -/
def execAdd (c : Ctl) (f : RRR) (s : State) : Host.Outcome State Fault Refusal :=
  regWord c s fun e t => putInt f (iSat f) (opA f t + opB e f t) t

/-- SUB (R421). -/
def execSub (c : Ctl) (f : RRR) (s : State) : Host.Outcome State Fault Refusal :=
  regWord c s fun e t => putInt f (iSat f) (opA f t - opB e f t) t

/-- MUL (R391). -/
def execMul (c : Ctl) (f : RRR) (s : State) : Host.Outcome State Fault Refusal :=
  regWord c s fun e t => putInt f (iSat f) (opA f t * opB e f t) t

/-- MULH: the high w bits of the exact product (R391). -/
def execMulh (c : Ctl) (f : RRR) (s : State) : Host.Outcome State Fault Refusal :=
  regWord c s fun e t => putInt f false (opA f t * opB e f t / ((2 ^ intW f.ty : Nat) : Int)) t

/-- MAD (R385). -/
def execMad (c : Ctl) (f : RRR) (s : State) : Host.Outcome State Fault Refusal :=
  regWord c s fun e t => putInt f (iSat f) (opA f t * opB e f t + opC f t) t

/-- MIN (R386). -/
def execMin (c : Ctl) (f : RRR) (s : State) : Host.Outcome State Fault Refusal :=
  regWord c s fun e t => putInt f false (if opB e f t < opA f t then opB e f t else opA f t) t

/-- MAX (R386). -/
def execMax (c : Ctl) (f : RRR) (s : State) : Host.Outcome State Fault Refusal :=
  regWord c s fun e t => putInt f false (if opA f t < opB e f t then opB e f t else opA f t) t

/-- ABS (R341). -/
def execAbs (c : Ctl) (f : RRR) (s : State) : Host.Outcome State Fault Refusal :=
  regWord c s fun _ t => putInt f (iSat f) ((opA f t).natAbs : Int) t

/-- NEG (R393). -/
def execNeg (c : Ctl) (f : RRR) (s : State) : Host.Outcome State Fault Refusal :=
  regWord c s fun _ t => putInt f (iSat f) (-opA f t) t

/-- AND (R344). -/
def execAnd (c : Ctl) (f : RRR) (s : State) : Host.Outcome State Fault Refusal :=
  regWord c s fun e t => t.putBits (intW f.ty) f.d.toNat (rawA f t &&& rawB e f t)

/-- OR (R396). -/
def execOr (c : Ctl) (f : RRR) (s : State) : Host.Outcome State Fault Refusal :=
  regWord c s fun e t => t.putBits (intW f.ty) f.d.toNat (rawA f t ||| rawB e f t)

/-- XOR (R432). -/
def execXor (c : Ctl) (f : RRR) (s : State) : Host.Outcome State Fault Refusal :=
  regWord c s fun e t => t.putBits (intW f.ty) f.d.toNat (rawA f t ^^^ rawB e f t)

/-- NOT (R395). -/
def execNot (c : Ctl) (f : RRR) (s : State) : Host.Outcome State Fault Refusal :=
  regWord c s fun _ t => t.putBits (intW f.ty) f.d.toNat (2 ^ intW f.ty - 1 - rawA f t)

/-- The shift count: the low 32 bits of the second source, unsigned (R408). -/
def shiftCount (e : Env) (f : RRR) (t : Thread) : Nat := rawB e f t % 2 ^ 32

/-- SHL (R408). -/
def execShl (c : Ctl) (f : RRR) (s : State) : Host.Outcome State Fault Refusal :=
  regWord c s fun e t =>
    let k := shiftCount e f t
    t.putBits (intW f.ty) f.d.toNat (if intW f.ty ≤ k then 0 else rawA f t * 2 ^ k % 2 ^ intW f.ty)

/-- SHR (R408). -/
def execShr (c : Ctl) (f : RRR) (s : State) : Host.Outcome State Fault Refusal :=
  regWord c s fun e t =>
    let k := shiftCount e f t
    t.putBits (intW f.ty) f.d.toNat (if intW f.ty ≤ k then 0 else rawA f t / 2 ^ k)

/-- SAR (R408). -/
def execSar (c : Ctl) (f : RRR) (s : State) : Host.Outcome State Fault Refusal :=
  regWord c s fun e t =>
    let w := intW f.ty
    let k := min (shiftCount e f t) w
    t.putBits w f.d.toNat (wrapInt (signExtend (rawA f t) w / ((2 ^ k : Nat) : Int)) w)

/-- pos and len of a control word, each clamped to w (R347). -/
def fieldCtl (w ctl : Nat) : Nat × Nat := (min (ctl % 256) w, min (ctl / 256 % 256) w)

/-- BFX (R347). -/
def execBfx (c : Ctl) (f : RRR) (s : State) : Host.Outcome State Fault Refusal :=
  regWord c s fun _ t =>
    let w := intW f.ty
    let (pos, len) := fieldCtl w (t.reg f.b.toNat).toNat
    let x := bitsOf (rawA f t) pos len
    t.putBits w f.d.toNat (if len = 0 then 0 else if f.md.getLsbD 0 then wrapInt (signExtend x len) w else x)

/-- BFI (R347). -/
def execBfi (c : Ctl) (f : RRR) (s : State) : Host.Outcome State Fault Refusal :=
  regWord c s fun _ t =>
    let w := intW f.ty
    let (pos, len) := fieldCtl w (t.reg f.c.toNat).toNat
    let n := min (pos + len) w - pos
    let a := rawA f t
    t.putBits w f.d.toNat (a % 2 ^ pos + rawFieldB f t % 2 ^ n * 2 ^ pos + a / 2 ^ (pos + n) * 2 ^ (pos + n))
where
  /-- The bits of B as a register operand. -/
  rawFieldB (f : RRR) (t : Thread) : Nat := t.rawAt (intW f.ty) f.b.toNat

/-- The number of 1 bits among the low `w`. -/
def popCount (w x : Nat) : Nat :=
  match w with
  | 0 => 0
  | k + 1 => x % 2 + popCount k (x / 2)

/-- POPC (R402). -/
def execPopc (c : Ctl) (f : RRR) (s : State) : Host.Outcome State Fault Refusal :=
  regWord c s fun _ t => t.putBits (intW f.ty) f.d.toNat (popCount (intW f.ty) (rawA f t))

/-- CLZ (R354). -/
def execClz (c : Ctl) (f : RRR) (s : State) : Host.Outcome State Fault Refusal :=
  regWord c s fun _ t => t.putBits (intW f.ty) f.d.toNat (intW f.ty - bitLen (rawA f t))

/-- CMP: writes a predicate (R355). -/
def execCmp (c : Ctl) (f : RRR) (s : State) : Host.Outcome State Fault Refusal :=
  regWord c s fun e t => t.setPred f.d.toNat (cmpCond (f.md.toNat % 8) (opA f t) (opB e f t))

/-- SEL (R410). -/
def execSel (c : Ctl) (f : RRR) (s : State) : Host.Outcome State Fault Refusal :=
  regWord c s fun e t => putInt f false (if t.getPred f.c.toNat then opA f t else opB e f t) t

/-- MOV: copies the source bits (R389). -/
def execMov (c : Ctl) (f : RRR) (s : State) : Host.Outcome State Fault Refusal :=
  regWord c s fun _ t =>
    if f.ty == 11 then t.setQuad f.d.toNat (t.quad f.a.toNat)
    else t.putBits (intW f.ty) f.d.toNat (rawA f t)

/-- LEA: a base plus a shifted index, never translated (R384). -/
def execLea (c : Ctl) (f : RRR) (s : State) : Host.Outcome State Fault Refusal :=
  regWord c s fun e t => t.setPair f.d.toNat (BitVec.ofNat 64 ((t.pair f.a.toNat).toNat + rawB e f t * 2 ^ (f.md.toNat % 8)))

/-- The value of MOVI by type (R390). -/
def moviValue (ext : Option Word) (f : RI) : Nat :=
  match ext with
  | some x => x.toNat * 2 ^ 32 + f.imm.toNat
  | none => if f.ty == 7 then wrapInt (signExtend f.imm.toNat 32) 64 else f.imm.toNat

/-- MOVI (R390). -/
def execMovi (c : Ctl) (f : RI) (s : State) : Host.Outcome State Fault Refusal :=
  regWord c s fun e t => t.putBits (intW f.ty) f.d.toNat (moviValue e.cu.ext f)

end Sys2Proof.Machine
end

