-- ==== Sys2Proof/Machine/MemWords.lean ====
section
/-! DEFINITION. The memory words of class 0: LD, ST, LDS, STS, ATOM, CAS, CAS128, FENCE and FENCE .flush (R339, R345, R346, R352, R353,
R367, R381 to R383, R418, R420). Each issues an access, which Dev.issueAcc tries at once; its result arrives as a pending write. -/

namespace Sys2Proof.Machine

open Sys2Proof

/-- An access of a word, not yet numbered. -/
def Env.access (e : Env) (f : MEM) (kind : AccKind) (stash : Bool) (va : DWord) (n v cmp : Nat) : Access :=
  { id := 0, asid := e.blk.asid, blk := e.cu.blk, slot := e.cu.slot, addr := e.cu.addr, word := e.cu.word, pos := e.cu.pos, kind := kind,
    stash := stash, va := va, n := n, v := v, cmp := cmp, ty := f.ty.toNat, order := f.order, scope := f.scope, hint := f.hint.toNat, pend := 0,
    phase := .new, refusals := 0, wideDone := false, leaf := none, early := none, mark := false, wide := none, half := none, asked := 0, desc := none }

/-- A word's access by virtual address, with the checks of R339 in their order; `al` is its alignment (R197). -/
def vaWord (e : Env) (t : Thread) (f : MEM) (kind : AccKind) (n al v cmp : Nat) (dst : List Nat) (m : Dev) : Dev :=
  let va := memVa e f t
  if vaBad va then e.fault m (Flt.at_ 0x10 va.toNat kind.wr)
  else if va.toNat % al != 0 then e.fault m (Flt.at_ 0x14 va.toNat kind.wr)
  else m.issueAcc e.ft e.cu (e.access f kind false va n v cmp) dst

/-- A word's access by stash offset, with the checks of R383. -/
def stashWord (e : Env) (t : Thread) (f : MEM) (kind : AccKind) (n v : Nat) (dst : List Nat) (m : Dev) : Dev :=
  let off := memStashOff e f t
  if off < 0 || (e.blk.winSize : Int) < off + n || off.toNat % n != 0 then e.fault m { Flt.plain 0x14 with wr := kind.wr }
  else m.issueAcc e.ft e.cu (e.access f kind true (BitVec.ofInt 64 off) n v 0) dst

/-- LD (R382). -/
def execLd (c : Ctl) (f : MEM) (s : State) : Host.Outcome State Fault Refusal :=
  word c s fun e t m => let n := tySize f.ty; vaWord e t f .load n n 0 0 (regSpan f.d.toNat n) m

/-- ST (R418). -/
def execSt (c : Ctl) (f : MEM) (s : State) : Host.Outcome State Fault Refusal :=
  word c s fun e t m => let n := tySize f.ty; vaWord e t f .store n n (t.bytesAt f.data.toNat n) 0 [] m

/-- LDS (R383). -/
def execLds (c : Ctl) (f : MEM) (s : State) : Host.Outcome State Fault Refusal :=
  word c s fun e t m => let n := tySize f.ty; stashWord e t f .load n 0 (regSpan f.d.toNat n) m

/-- STS (R420). -/
def execSts (c : Ctl) (f : MEM) (s : State) : Host.Outcome State Fault Refusal :=
  word c s fun e t m => let n := tySize f.ty; stashWord e t f .store n (t.bytesAt f.data.toNat n) [] m

/-- An ATOM word (R346). -/
def atomWord (k : AccKind) (f : MEM) (e : Env) (t : Thread) (m : Dev) : Dev :=
  let n := tySize f.ty
  vaWord e t f k n n (t.bytesAt f.data.toNat n) 0 (regSpan f.d.toNat n) m

/-- ATOM.add: integer, or .f32 with one rounding (R345). -/
def execAtomAdd (c : Ctl) (f : MEM) (s : State) : Host.Outcome State Fault Refusal := word c s (atomWord (if f.ty == 10 then .fadd else .add) f)

/-- ATOM.min (R345). -/
def execAtomMin (c : Ctl) (f : MEM) (s : State) : Host.Outcome State Fault Refusal := word c s (atomWord .min f)

/-- ATOM.max (R345). -/
def execAtomMax (c : Ctl) (f : MEM) (s : State) : Host.Outcome State Fault Refusal := word c s (atomWord .max f)

/-- ATOM.and (R345). -/
def execAtomAnd (c : Ctl) (f : MEM) (s : State) : Host.Outcome State Fault Refusal := word c s (atomWord .and f)

/-- ATOM.or (R345). -/
def execAtomOr (c : Ctl) (f : MEM) (s : State) : Host.Outcome State Fault Refusal := word c s (atomWord .or f)

/-- ATOM.xor (R345). -/
def execAtomXor (c : Ctl) (f : MEM) (s : State) : Host.Outcome State Fault Refusal := word c s (atomWord .xor f)

/-- ATOM.exch (R345). -/
def execAtomExch (c : Ctl) (f : MEM) (s : State) : Host.Outcome State Fault Refusal := word c s (atomWord .exch f)

/-- ATOM.inc (R345). -/
def execAtomInc (c : Ctl) (f : MEM) (s : State) : Host.Outcome State Fault Refusal := word c s (atomWord .inc f)

/-- CAS: the compare value below the new value; aligned to twice its size (R197, R353). -/
def execCas (c : Ctl) (f : MEM) (s : State) : Host.Outcome State Fault Refusal :=
  word c s fun e t m =>
    let n := tySize f.ty
    vaWord e t f .cas n (2 * n) (t.bytesAt (f.data.toNat + n / 4) n) (t.bytesAt f.data.toNat n) (regSpan f.d.toNat n) m

/-- CAS128 (R353). -/
def execCas128 (c : Ctl) (f : MEM) (s : State) : Host.Outcome State Fault Refusal :=
  word c s fun e t m => vaWord e t f .cas 16 16 (t.bytesAt (f.data.toNat + 4) 16) (t.bytesAt f.data.toNat 16) (regSpan f.d.toNat 16) m

/-- FENCE (R206, R367). -/
def execFence (c : Ctl) (f : MEM) (s : State) : Host.Outcome State Fault Refusal :=
  word c s fun e _ m => m.issueAcc e.ft e.cu (e.access f .fence false 0 0 0 0) []

/-- FENCE .flush (R178, R206). -/
def execFenceFlush (c : Ctl) (f : MEM) (s : State) : Host.Outcome State Fault Refusal :=
  word c s fun e _ m => m.issueAcc e.ft e.cu (e.access f .flush false 0 0 0 0) []

end Sys2Proof.Machine
end

