-- ==== Sys2Proof/Machine/Service.lean ====
section
/-! DEFINITION. Service: keys (R333), links and their loss (R327, R328, R331), stranded lines, boot (R334, R335), live update (R336), power gating
(R326), the core clock (R24), a fatal link (R321), device reset. -/

namespace Sys2Proof.Machine

open Sys2Proof

/-! ### Keys (R333) -/

/-- A key command starts: ignored while one is in progress, and for index 0 (R332, R333). (DEDUCED, log entry 64.) -/
def Mgmt.keyStart (g : Mgmt) (load : Bool) (v : DWord) : Mgmt :=
  let i := bitsOf v.toNat 0 13
  if g.keyBusy || i = 0 then g else { g with keyBusy := true, keyCmd := some (load, i) }

/-- KEY_CMD with OP 1. -/
def execKeyLoad (v : DWord) (s : State) : Host.Outcome State Fault Refusal := hostOp s fun _ m => m.modMgmt fun g => g.keyStart true v

/-- KEY_CMD with OP 2. -/
def execKeyErase (v : DWord) (s : State) : Host.Outcome State Fault Refusal := hostOp s fun _ m => m.modMgmt fun g => g.keyStart false v

/-- A key is installed or erased; what an erased index held stays for the lines cached under it, which are written back under that key (R195, R333). -/
def Mgmt.setKey (g : Mgmt) (i : Nat) (k : Option (BitVec 512)) : Mgmt :=
  let old := match k with | some _ => none | none => (mget none g.keys i).or (mget none g.erased i)
  { g with keys := mput none g.keys i k, erased := mput none g.erased i old }

/-- KEY_CMD_COMPLETE: the key is installed or erased, KEY_DATA is zero, and BUSY falls (R333). -/
def execKeyCmdComplete (s : State) : Host.Outcome State Fault Refusal :=
  onM s fun _ m =>
    match m.mgmt.keyCmd with
    | some (load, i) =>
      m.modMgmt fun g => { g.setKey i (if load then some g.keyData else none) with keyData := 0, keyBusy := false, keyCmd := none }
    | none => m

/-! ### Loss of links, stranded lines (R327, R328, R331) -/

/-- A location is memory behind a host port (0, 1) or a Colrok link (2 and up). -/
def Dev.behind (m : Dev) (port loc : Nat) : Bool :=
  if port < 2 then !isDevLoc loc && portOf loc == port
  else isDevLoc loc && !m.isLocal loc && mget none m.mgmt.routes (podOf loc) == some (port - 2)

/-- A slice's block as its link is lost: its dirty lines are stranded, its clean ones discarded (R327). -/
def L2Block.strand (b : L2Block) (port : Nat) : Option L2Block :=
  let lines := ((b.data.map fun e => e.1 / 128).eraseDups.filter fun l => !b.stranded.any fun x => x.1 == l).map fun l => (l, b.key)
  if b.data.isEmpty then none else some { b with sectors := [], stranded := b.stranded ++ lines, port := port }

/-- The fills in flight behind a lost port or link are discarded: their segments are Unfilled for a new touch (R327). -/
def Dev.dropFills (m : Dev) (behind : Nat → Bool) : Dev :=
  let spoilt (g : Seg) : Bool := g.st == .filling && g.words.any fun w => behind (match w.comp with | some (e, _) => e | none => w.pa)
  let one (e : Skein) : Skein := { e with segs := e.segs.filter fun (_, g) => !spoilt g }
  { m with cores := m.cores.map fun (i, c) => (i, { c with skeins := c.skeins.map fun (k, e) => (k, e.map one) }) }

/-- An access whose request has left its core for memory behind a lost port or link takes "link lost" (R327). -/
def Dev.loseAccess (m : Dev) (behind : Nat → Bool) (core : Nat) (a : Access) : Dev :=
  let away := match a.phase with | .new => false | .walk => false | _ => true
  match a.leaf with
  | some e =>
    let pg := e.leaf.pageOf a.asid a.part.va.toNat
    if away && behind (match pg.comp with | some (x, _) => x | none => pg.loc) then
      m.settleAcc core a (.error (.flt { transFlt 0x1D a.va.toNat a.need with pa := (m.slotPage pg).loc % 2 ^ 52 }), m)
    else m
  | none => m

/-- So do the bursts of a comet read that have been requested (R258, R327). -/
def Dev.loseBursts (m : Dev) (behind : Nat → Bool) (core : Nat) (r : CometRun) : Dev :=
  match m.block core r.org.blk with
  | none => m
  | some b =>
    let lost (x : Nat × Nat × TlbEntry) : Bool :=
      let pg := x.2.2.leaf.pageOf b.asid x.2.1
      r.inFlight.contains x.1 && !r.faulted.contains x.1 && behind (match pg.comp with | some (e, _) => e | none => pg.loc)
    (((r.leaves.filter lost).map fun x => (x.1, x.2.1)).foldl (fun (l : List (Nat × Nat)) x => if l.any fun y => y.1 == x.1 then l else l ++ [x]) []).foldl (fun y x =>
      (y.modCore core fun c => c.suspendBurst r.org.id x.1).charge b.asid (cometCharge core r.org r.cid x.1) (Flt.at_ 0x1D x.2 false) (.burst core r.org.id x.1)) m

/-- The requests in flight to memory behind a lost port or link are discarded: what made them takes "link lost" (R327). -/
def Dev.loseRequests (m : Dev) (behind : Nat → Bool) : Dev :=
  m.cores.foldl (fun x (i, c) => c.comets.foldl (fun y r => y.loseBursts behind i r) (c.accs.foldl (fun y a => y.loseAccess behind i a) x)) m

/-- Memory behind a port or link is cut off: dirty lines are stranded in their slices, clean ones and requests in flight discarded (R327). The link's state has
changed before.
(DEDUCED, log entry 63.) -/
def Dev.strand (m : Dev) (port : Nat) : Dev :=
  let m0 := m.loseRequests (m.behind port)
  let m1 := m0.cores.foldl (fun x (i, _) => x.dropL1 i fun a _ => m.behind port a) (m0.dropFills (m.behind port))
  { m1 with l2 := m1.l2.filterMap fun (k, b) =>
      if m.behind port (512 * k) then ((b.bind fun x => x.strand port).map fun x => (k, some x)) else some (k, b) }

/-- The loss is reported: the timer starts and the link interrupt is raised (R327, R328). -/
def Dev.reportLoss (m : Dev) : Dev :=
  (m.modMgmt fun g => { g with strandTimer := true, strandExpired := false }).interrupt (bitsOf m.mgmt.intVec.toNat 48 12)

/-- A host port's state. -/
def Mgmt.port (g : Mgmt) (p : Nat) : LinkState := if p = 0 then g.port0 else g.port1

/-- Sets it. -/
def Mgmt.setPort (g : Mgmt) (p : Nat) (x : LinkState) : Mgmt := if p = 0 then { g with port0 := x } else { g with port1 := x }

/-- A Colrok link's record. -/
def Mgmt.link (g : Mgmt) (l : Nat) : Link := mget Fresh.link g.links l

/-- Sets it. -/
def Mgmt.setLink (g : Mgmt) (l : Nat) (x : Link) : Mgmt := { g with links := mput Fresh.link g.links l x }

/-- The requests of a lost port's host that wait at the home slices are discarded (R327). -/
def Dev.dropHostRequests (m : Dev) (port : Nat) : Dev := { m with home := { m.home with outside := m.home.outside.filter fun x => x.agent != .host port } }

/-- HOST_LINK_LOST (R327, R328). -/
def execHostLinkLost (port : Nat) (s : State) : Host.Outcome State Fault Refusal :=
  onM s fun _ m =>
    if 2 ≤ port || m.mgmt.port port == .down then m else (((m.modMgmt fun g => g.setPort port .down).dropHostRequests port).strand port).reportLoss

/-- The valid route entries that name a link give "link lost" until they are written again (R331). -/
def Mgmt.loseRoutes (g : Mgmt) (link : Nat) : Mgmt :=
  { g with routesLost := g.routesLost ++ (g.routes.filter fun e => e.2 == some link && !g.routesLost.contains e.1).map (·.1) }

/-- COLROK_LINK_LOST (R331). -/
def execColrokLinkLost (link : Nat) (s : State) : Host.Outcome State Fault Refusal :=
  onM s fun ft m =>
    if ft.links ≤ link || (m.mgmt.link link).st == .down then m
    else ((m.modMgmt fun g => (g.setLink link { g.link link with st := .down }).loseRoutes link).strand (2 + link)).reportLoss

/-- A host port that is down starts training (R328, R332). -/
def Mgmt.portTrains (g : Mgmt) (port : Nat) : Mgmt := if port < 2 && g.port port == .down then g.setPort port .training else g

/-- A Colrok link that is down starts training: with POD accepted, or while the device boots (R6, R332, R334; DEDUCED, log entry 65). -/
def Mgmt.linkTrains (g : Mgmt) (ft : Features) (link : Nat) : Mgmt :=
  if link < ft.links && (ft.has 5 || g.boot != .running) && (g.link link).st == .down then g.setLink link { g.link link with st := .training } else g

/-- A device that runs offers the image on every link that is up but its parent's (R334). -/
def Mgmt.makeOffers (g : Mgmt) (ft : Features) : Mgmt :=
  if g.boot == .running && g.podSet then { g with offers := (List.range ft.links).filter fun l => (g.link l).st == .up && g.bootParent != some l } else g

/-- CR_STAT of a link that is up shows the number that the device across it has been assigned (R332, R334). -/
def Mgmt.peerNumber (g : Mgmt) (link n : Nat) : Mgmt :=
  if (g.link link).st == .up then g.setLink link { g.link link with peer := n % 4096 } else g

/-- An intermediate device's link fails, or comes up again (R329). -/
def Mgmt.podPath (g : Mgmt) (dev : Nat) (up : Bool) : Mgmt :=
  { g with pathLost := if up then g.pathLost.filter (· != dev) else if g.pathLost.contains dev then g.pathLost else dev :: g.pathLost }

/-- HOST_PORT_LINK_UP: a host port has trained (R320, R328). -/
def execHostPortLinkUp (port : Nat) (s : State) : Host.Outcome State Fault Refusal :=
  onM s fun _ m => if 2 ≤ port then m else m.modMgmt fun g => g.setPort port .up

/-- COLROK_LINK_UP: a Colrok link has trained, at boot or with POD accepted (R6, R331, R334). (DEDUCED, log entry 65.) -/
def execColrokLinkUp (link peer : Nat) (s : State) : Host.Outcome State Fault Refusal :=
  onM s fun ft m =>
    if ft.links ≤ link || !(ft.has 5 || m.mgmt.boot != .running) then m
    else m.modMgmt fun g => (g.setLink link { st := .up, peer := peer % 4096 }).makeOffers ft

/-- The port or link that STRAND_CTL selects (R332). -/
def Mgmt.strandTarget (g : Mgmt) : Nat := if g.strandLinks then 2 + g.strandLnk else if g.strandPort then 1 else 0

/-- A port (0, 1) or link (2 and up) is up. -/
def Mgmt.targetUp (g : Mgmt) (t : Nat) : Bool := if t < 2 then g.port t == .up else (g.link (t - 2)).st == .up

/-- STRAND_CTL with WB: accepted while the timer runs and the link is up again (R328). (DEDUCED, log entry 64.) -/
def execStrandWb (v : DWord) (s : State) : Host.Outcome State Fault Refusal :=
  hostOp s fun _ m => m.modMgmt fun g =>
    if g.strandBusy.isSome then g
    else
      let g1 := g.strandFields v
      if g1.strandTimer && g1.targetUp g1.strandTarget then { g1 with strandBusy := some false, strandAt := g1.strandTarget } else g1

/-- STRAND_CTL with DISC: accepted whether or not the timer has expired (R328). -/
def execStrandDisc (v : DWord) (s : State) : Host.Outcome State Fault Refusal :=
  hostOp s fun _ m => m.modMgmt fun g =>
    if g.strandBusy.isSome then g else { g.strandFields v with strandBusy := some true, strandAt := (g.strandFields v).strandTarget }

/-- The stranded lines of a block are written to their memory, each under its key (R195, R328). -/
def Dev.writeStranded (m : Dev) (k : Nat) : Dev :=
  match mget none m.l2 k with
  | some b => b.data.foldl (fun (x : Dev) e =>
      match e.2, b.stranded.find? fun l => l.1 == e.1 / 128 with
      | some v, some (_, key) => x.putRest key e.1 v
      | _, _ => x) m
  | none => m

/-- The stranded lines of a block leave it, and with the last of its lines the block is gone. -/
def Dev.unstrand (m : Dev) (k : Nat) : Dev :=
  { m with l2 := mput none m.l2 k ((mget none m.l2 k).bind fun b =>
      let x := { b with stranded := [], data := b.data.filter fun e => !b.strandedLoc e.1 }
      if x.data.isEmpty && x.sectors.isEmpty then none else some x) }

/-- STRAND_CMD_COMPLETE: each stranded line of the port or link that the command named has been written to its memory and its mark cleared, or discarded;
BUSY falls (R328). Where the port has failed again, WB writes nothing back. (DEDUCED, log entry 64.) -/
def execStrandCmdComplete (s : State) : Host.Outcome State Fault Refusal :=
  onM s fun _ m =>
    match m.mgmt.strandBusy with
    | none => m
    | some disc =>
      let t := m.mgmt.strandAt
      let sel := m.l2.filterMap fun (k, b) => match b with | some x => if !x.stranded.isEmpty && x.port == t then some k else none | none => none
      let one (x : Dev) (k : Nat) : Dev := (if disc then x else x.writeStranded k).unstrand k
      (if disc || m.mgmt.targetUp t then sel.foldl one m else m).modMgmt fun g => { g with strandBusy := none }

/-- STRAND_TIMER_EXPIRE: the one-second timer has run out (R328). -/
def execStrandTimerExpire (s : State) : Host.Outcome State Fault Refusal :=
  onM s fun _ m => if m.mgmt.strandTimer then m.modMgmt fun g => { g with strandTimer := false, strandExpired := true } else m

/-! ### Boot (R334, R335) -/

/-- FW_STAT.CODE of an image (R332, R335). -/
def imageCode (i : ImageCheck) : Nat :=
  if !i.wellFormed then 4 else if !i.ecdsaOk && !i.lmsOk then 3 else if !i.ecdsaOk then 1 else if !i.lmsOk then 2 else 0

/-- The device runs its image under the first number of the block handed down to it, and offers the image on its remaining links; its children get the numbers
that follow (R334). (DEDUCED, log entry 66.) -/
def Mgmt.runImage (g : Mgmt) (ft : Features) (number count : Nat) (version : Word) : Mgmt :=
  { g with boot := .running, podSet := true, podDev := number, bootNext := number + 1, bootLimit := number + count, fwVer := version, fwCode := 0 }.makeOffers ft

/-- A child takes the offer on a link: it gets the next `n` numbers of this device's block, children being served in ascending link order, and its own number, the
first of them, is the link's PEER (R332, R334). (DEDUCED, log entry 66.) -/
def Mgmt.bootChild (g : Mgmt) (link n : Nat) : Mgmt :=
  if g.offers.contains link && g.children.all (fun c => c.1 < link) && 0 < n && g.bootNext + n ≤ g.bootLimit then
    { g.setLink link { g.link link with peer := g.bootNext } with children := g.children ++ [(link, g.bootNext, n)], bootNext := g.bootNext + n }
  else g

/-- BOOT_ROOT_START: the strapped root checks and runs the image of its own flash and takes pod number 0; where the check fails it reports CODE and stays in
recovery (R334, R335). (DEDUCED, log entry 66.) -/
def execBootRootStart (s : State) : Host.Outcome State Fault Refusal :=
  onM s fun ft m => m.modMgmt fun g =>
    if g.bootRoot && g.boot == .waiting then
      if g.flashCode = 0 then g.runImage ft 0 4096 g.flash else { g with boot := .recovery, fwCode := g.flashCode }
    else g

/-- BOOT_OFFER_RECEIVED: the lowest-numbered offering link that is up becomes the parent link, and the image is fetched from the parent (R334). -/
def execBootOfferReceived (links : List Nat) (s : State) : Host.Outcome State Fault Refusal :=
  onM s fun ft m => m.modMgmt fun g =>
    match links.filter fun l => decide (l < ft.links) && (g.link l).st == .up with
    | [] => g
    | l :: r =>
      if !g.bootRoot && g.boot == .waiting then { g with boot := .verifying (some (r.foldl min l)) 3, bootParent := some (r.foldl min l) } else g

/-- BOOT_IMAGE_VERIFIED: the image verifies and the device runs it under the first number of the block its parent assigns; or CODE reports the failure to the parent, and the
image is requested again up to three times, then recovery (R334, R335). (DEDUCED, log entry 66.) -/
def execBootImageVerified (img : ImageCheck) (number : NumberBlock) (s : State) : Host.Outcome State Fault Refusal :=
  onM s fun ft m => m.modMgmt fun g =>
    match g.boot with
    | .verifying parent retries =>
      if imageCode img = 0 then g.runImage ft (number.first % 4096) (max 1 (min number.count (4096 - number.first % 4096))) img.version
      else { g with fwCode := imageCode img, reports := g.reports ++ [imageCode img], boot := match retries with | 0 => .recovery | n + 1 => .verifying parent n }
    | _ => g

/-! ### Live update (R336) -/

/-- The update turns to a die: placement on it stops and its blocks are asked to leave. -/
def Dev.updateDie (m : Dev) (ft : Features) (die : Nat) : Dev :=
  let ask (x : Core) : Core := { x with blocks := x.blocks.map fun b => if b.bst == .running || b.bst == .restarting then b.ask m.mgmt.lmem else b }
  (ft.coresOf die).foldl (fun x i => x.modCore i ask) (m.modDie die fun d => { d with placing := false })

/-- FW_UPD with GO: the staged image is verified; a failure is reported in CODE and changes nothing else; a GO while an update runs is ignored
(R336), while IMG of that write is stored (DESIGN CHOICE, log entry 121). -/
def execFwUpdateGo (v : DWord) (img : ImageCheck) (s : State) : Host.Outcome State Fault Refusal :=
  hostOp s fun ft m =>
    let m1 := m.modMgmt fun g => { g with fwImg := BitVec.ofNat 64 (bitsOf v.toNat 12 40 * 4096) }
    if m.mgmt.fwBusy.isSome then m1
    else if imageCode img != 0 then m1.modMgmt fun g => { g with fwCode := imageCode img }
    else (m1.modMgmt fun g => { g with fwCode := 0, fwDone := 0, fwBusy := some { version := img.version, die := 0 } }).updateDie ft 0

/-- Blocks of a die that still have to be pre-empted. -/
def Dev.dieBusy (m : Dev) (ft : Features) (die : Nat) : Bool :=
  (ft.coresOf die).any fun i => (m.core i).blocks.any fun b => ((b.bst == .running || b.bst == .restarting) && !b.over) || (b.bst == .preempted && b.skid.isSome)

/-- FW_DIE_UPDATE: its blocks pre-empted, a die switches to the new image, its DONE bit is set, placement on it resumes, and the next die follows. -/
def execFwDieUpdate (s : State) : Host.Outcome State Fault Refusal :=
  onM s fun ft m =>
    match m.mgmt.fwBusy with
    | none => m
    | some u =>
      if 4 ≤ u.die || m.dieBusy ft u.die then m
      else
        let m1 := (m.modDie u.die fun d => { d with placing := true }).modMgmt fun g =>
          { g with fwDone := g.fwDone ||| BitVec.ofNat 4 (2 ^ u.die), fwBusy := some { u with die := u.die + 1 } }
        if u.die + 1 < 4 then m1.updateDie ft (u.die + 1) else m1

/-- FW_UPDATE_COMPLETE: after the last die the root writes the new image to its flash, and BUSY falls (R336). -/
def execFwUpdateComplete (s : State) : Host.Outcome State Fault Refusal :=
  onM s fun _ m =>
    match m.mgmt.fwBusy with
    | none => m
    | some u =>
      if u.die < 4 then m
      else m.modMgmt fun g => { g with fwVer := u.version, flash := if g.bootRoot then u.version else g.flash, flashCode := if g.bootRoot then 0 else g.flashCode, fwBusy := none }

/-! ### Fatal links, power, clock, reset -/

/-- The fault with which a fatal die-ring link halts a context (R321; its fields: DESIGN CHOICE, log entry 13). -/
def fatalFault : FaultInfo :=
  { cause := 0x1C, engine := .walker, nr := true, core := 0, slot := 0, va := 0, addr := 0, word := 0, info0 := 0, info1 := 0, pa := 0, field := 0,
    wr := false, alias_ := false, cyc := 0, pos := 0, susp := none }

/-- UCIE_LINK_FATAL: every context halts with "poison" (R321). (DESIGN CHOICE, log entry 13.) -/
def execUcieLinkFatal (s : State) : Host.Outcome State Fault Refusal :=
  onM s fun _ m =>
    let stop (x : Context) : Context := if x.halt.isSome then x else x.raise fatalFault
    { m with ctxs := m.ctxs.map fun (e : Nat × Option Context) => (e.1, e.2.map stop) }

/-- Nothing acts on the core any more: no block is resident or has work left, and no access, request or hint of any block is outstanding (R326). -/
def Core.still (c : Core) : Bool :=
  c.residents.isEmpty && c.blocks.all (fun b => b.bst == .preempted) && c.accs.isEmpty && c.prefs.isEmpty && c.courses.isEmpty && c.out.isEmpty &&
    c.matRun.isNone && c.sweepRun.isNone && c.plyRun.isNone

/-- CORE_POWER_GATE: a core on which nothing acts any more retires its detached entries, writes back its dirty segments and L1 lines, deregisters every stash
word, and is gated (R326). (DEDUCED, log entry 67.) -/
def execCorePowerGate (core : Nat) (s : State) : Host.Outcome State Fault Refusal :=
  onM s fun ft m =>
    let c := m.core core
    if ft.coreCount ≤ core || !c.still || c.gated then m
    else
      let free := c.skeins.filter fun (_, e) => match e with | some s => s.blk.isNone && !s.leaving | none => false
      let leaving := c.skeins.any fun (_, e) => match e with | some s => s.leaving | none => false
      let busy := c.skeins.any fun (_, e) => match e with | some s => s.segs.any fun (_, g) => g.st == .filling || g.st == .retiring || g.wb.isSome | none => false
      if !free.isEmpty then free.foldl (fun x e => x.leaveEntry core e.1) m
      else if leaving || busy then m
      else
        let segs := c.skeins.flatMap fun (k, e) => match e with | some s => s.segs.map fun (i, _) => (k, i) | none => []
        let m1 := segs.foldl (fun (x : Dev) (k, i) => (x.putBack core (x.segData core k i)).modSeg core k i fun _ => unfilledSeg) m
        (m1.dropL1 core fun _ _ => true).modCore core fun x => { x with gated := true }

/-- CORE_CLOCK_CHANGE: all four compute dies together, in steps of 50 MHz from 700 to 1,400 (R24). -/
def execCoreClockChange (mhz : Nat) (s : State) : Host.Outcome State Fault Refusal :=
  onM s fun _ m => if 700 ≤ mhz ∧ mhz ≤ 1400 ∧ mhz % 50 = 0 then m.modMgmt fun g => { g with coreMhz := mhz } else m

/-- DEVICE_RESET: every register and unit is as after reset; the strap, the flash and the bytes of memory stay (DEDUCED, log entry 14). -/
def execDeviceReset (s : State) : Host.Outcome State Fault Refusal :=
  let m := s.m
  .next
    { feat := { s.feat with acc := 0, lock := false }
      m := { Fresh.machine with
        mem := m.mem, poisoned := m.poisoned.filter fun a => a < 2 ^ 60, nextId := m.nextId, freeCtr := m.freeCtr, moves := m.moves
        mgmt := { Fresh.mgmt with bootRoot := m.mgmt.bootRoot, flash := m.mgmt.flash, flashCode := m.mgmt.flashCode } } }

end Sys2Proof.Machine
end

