-- ==== Sys2Proof/Machine/Dispatch.lean ====
section
/-! DEFINITION. One arm per instruction: a direct call of its meaning, or its rejection by name. -/

namespace Sys2Proof.Machine

open Sys2Proof

/-- What an instruction word does for the member that `cur` names, and what a device step does. -/
def exec (i : Instr) (s : State) : Host.Outcome State Fault Refusal :=
  match i with
  | .nop c f => Sys2Proof.Machine.execNop c f s
  | .add c f => Sys2Proof.Machine.execAdd c f s
  | .sub c f => Sys2Proof.Machine.execSub c f s
  | .mul c f => Sys2Proof.Machine.execMul c f s
  | .mulh c f => Sys2Proof.Machine.execMulh c f s
  | .mad c f => Sys2Proof.Machine.execMad c f s
  | .min c f => Sys2Proof.Machine.execMin c f s
  | .max c f => Sys2Proof.Machine.execMax c f s
  | .abs c f => Sys2Proof.Machine.execAbs c f s
  | .neg c f => Sys2Proof.Machine.execNeg c f s
  | .and c f => Sys2Proof.Machine.execAnd c f s
  | .or c f => Sys2Proof.Machine.execOr c f s
  | .xor c f => Sys2Proof.Machine.execXor c f s
  | .not c f => Sys2Proof.Machine.execNot c f s
  | .shl c f => Sys2Proof.Machine.execShl c f s
  | .shr c f => Sys2Proof.Machine.execShr c f s
  | .sar c f => Sys2Proof.Machine.execSar c f s
  | .bfx c f => Sys2Proof.Machine.execBfx c f s
  | .bfi c f => Sys2Proof.Machine.execBfi c f s
  | .popc c f => Sys2Proof.Machine.execPopc c f s
  | .clz c f => Sys2Proof.Machine.execClz c f s
  | .cmp c f => Sys2Proof.Machine.execCmp c f s
  | .sel c f => Sys2Proof.Machine.execSel c f s
  | .mov c f => Sys2Proof.Machine.execMov c f s
  | .lea c f => Sys2Proof.Machine.execLea c f s
  | .movi c f => Sys2Proof.Machine.execMovi c f s
  | .fadd c f => Sys2Proof.Machine.execFadd c f s
  | .fsub c f => Sys2Proof.Machine.execFsub c f s
  | .fmul c f => Sys2Proof.Machine.execFmul c f s
  | .ffma c f => Sys2Proof.Machine.execFfma c f s
  | .fmin c f => Sys2Proof.Machine.execFmin c f s
  | .fmax c f => Sys2Proof.Machine.execFmax c f s
  | .fcmp c f => Sys2Proof.Machine.execFcmp c f s
  | .fclass c f => Sys2Proof.Machine.execFclass c f s
  | .frcp c f => Sys2Proof.Machine.execFrcp c f s
  | .frsq c f => Sys2Proof.Machine.execFrsq c f s
  | .fexp2 c f => Sys2Proof.Machine.execFexp2 c f s
  | .flog2 c f => Sys2Proof.Machine.execFlog2 c f s
  | .cvt c f => Sys2Proof.Machine.execCvt c f s
  | .cvtPk c f => Sys2Proof.Machine.execCvtPk c f s
  | .cvtUp c f => Sys2Proof.Machine.execCvtUp c f s
  | .ld c f => Sys2Proof.Machine.execLd c f s
  | .st c f => Sys2Proof.Machine.execSt c f s
  | .lds c f => Sys2Proof.Machine.execLds c f s
  | .sts c f => Sys2Proof.Machine.execSts c f s
  | .cas c f => Sys2Proof.Machine.execCas c f s
  | .cas128 c f => Sys2Proof.Machine.execCas128 c f s
  | .fence c f => Sys2Proof.Machine.execFence c f s
  | .fenceFlush c f => Sys2Proof.Machine.execFenceFlush c f s
  | .atomAdd c f => Sys2Proof.Machine.execAtomAdd c f s
  | .atomMin c f => Sys2Proof.Machine.execAtomMin c f s
  | .atomMax c f => Sys2Proof.Machine.execAtomMax c f s
  | .atomAnd c f => Sys2Proof.Machine.execAtomAnd c f s
  | .atomOr c f => Sys2Proof.Machine.execAtomOr c f s
  | .atomXor c f => Sys2Proof.Machine.execAtomXor c f s
  | .atomExch c f => Sys2Proof.Machine.execAtomExch c f s
  | .atomInc c f => Sys2Proof.Machine.execAtomInc c f s
  | .bra c f => Sys2Proof.Machine.execBra c f s
  | .brx c f => Sys2Proof.Machine.execBrx c f s
  | .call c f => Sys2Proof.Machine.execCall c f s
  | .ret c f => Sys2Proof.Machine.execRet c f s
  | .exit c f => Sys2Proof.Machine.execExit c f s
  | .yield c f => Sys2Proof.Machine.execYield c f s
  | .trap c f => Sys2Proof.Machine.execTrap c f s
  | .brk c f => Sys2Proof.Machine.execBrk c f s
  | .step c f => Sys2Proof.Machine.execStep c f s
  | .sign c f => Sys2Proof.Machine.execSign c f s
  | .signMask c f => Sys2Proof.Machine.execSignMask c f s
  | .waitm c f => Sys2Proof.Machine.execWaitm c f s
  | .pfx c f => Sys2Proof.Machine.execPfx c f s
  | .vadd c f => Sys2Proof.Machine.execVadd c f s
  | .vmul c f => Sys2Proof.Machine.execVmul c f s
  | .vfma c f => Sys2Proof.Machine.execVfma c f s
  | .vmax c f => Sys2Proof.Machine.execVmax c f s
  | .vexp c f => Sys2Proof.Machine.execVexp c f s
  | .vcopy c f => Sys2Proof.Machine.execVcopy c f s
  | .vsum c f => Sys2Proof.Machine.execVsum c f s
  | .vrms c f => Sys2Proof.Machine.execVrms c f s
  | .vsmb c f => Sys2Proof.Machine.execVsmb c f s
  | .vspc c t f => Sys2Proof.Machine.execVspc c t f s
  | .vcvtPk c slot f => Sys2Proof.Machine.execVcvtPk c slot f s
  | .vcvtUp c slot f => Sys2Proof.Machine.execVcvtUp c slot f s
  | .mma c f => Sys2Proof.Machine.execMma c f s
  | .mmas c f => Sys2Proof.Machine.execMmas c f s
  | .accalloc c f => Sys2Proof.Machine.execAccalloc c f s
  | .accfree c f => Sys2Proof.Machine.execAccfree c f s
  | .acczero c f => Sys2Proof.Machine.execAcczero c f s
  | .accrd c slot f => Sys2Proof.Machine.execAccrd c slot f s
  | .rstl c f => Sys2Proof.Machine.execRstl c f s
  | .copy c f => Sys2Proof.Machine.execCopy c f s
  | .comet c f => Sys2Proof.Machine.execComet c f s
  | .seal c f => Sys2Proof.Machine.execSeal c f s
  | .waitb c f => Sys2Proof.Machine.execWaitb c f s
  | .pref c f => Sys2Proof.Machine.execPref c f s
  | .prefList c f => Sys2Proof.Machine.execPrefList c f s
  | .plymatch c f => Sys2Proof.Machine.execPlymatch c f s
  | .plymerge c f => Sys2Proof.Machine.execPlymerge c f s
  | .plysplit c f => Sys2Proof.Machine.execPlysplit c f s
  | .plykeep c f => Sys2Proof.Machine.execPlykeep c f s
  | .plyfree c f => Sys2Proof.Machine.execPlyfree c f s
  | .mvs c f => Sys2Proof.Machine.execMvs c f s
  | .evset c f => Sys2Proof.Machine.execEvset c f s
  | .evclr c f => Sys2Proof.Machine.execEvclr c f s
  | .evwait c f => Sys2Proof.Machine.execEvwait c f s
  | .launch c f => Sys2Proof.Machine.execLaunch c f s
  | .kninit c f => Sys2Proof.Machine.execKninit c f s
  | .knarr c f => Sys2Proof.Machine.execKnarr c f s
  | .knwait c f => Sys2Proof.Machine.execKnwait c f s
  | .skmap c f => Sys2Proof.Machine.execSkmap c f s
  | .skunmap c f => Sys2Proof.Machine.execSkunmap c f s
  | .skflush c f => Sys2Proof.Machine.execSkflush c f s
  | .skflushAll c f => Sys2Proof.Machine.execSkflushAll c f s
  | .skquery c f => Sys2Proof.Machine.execSkquery c f s
  | .deviceReset => Sys2Proof.Machine.execDeviceReset s
  | .devFeatAccWrite v => Sys2Proof.Machine.execDevFeatAccWrite v s
  | .featLock v => Sys2Proof.Machine.execFeatLock v s
  | .ctxCreate v => Sys2Proof.Machine.execCtxCreate v s
  | .ctxDestroy v => Sys2Proof.Machine.execCtxDestroy v s
  | .ctxDestroyComplete asid => Sys2Proof.Machine.execCtxDestroyComplete asid s
  | .ctxResRead => Sys2Proof.Machine.execCtxResRead s
  | .graphDb v => Sys2Proof.Machine.execGraphDb v s
  | .evHostSet v => Sys2Proof.Machine.execEvHostSet v s
  | .evHostClear v => Sys2Proof.Machine.execEvHostClear v s
  | .ctxDroppedRead => Sys2Proof.Machine.execCtxDroppedRead s
  | .ctxStateRead => Sys2Proof.Machine.execCtxStateRead s
  | .registerWrite off v => Sys2Proof.Machine.execRegisterWrite off v s
  | .dirCtlWrite die v => Sys2Proof.Machine.execDirCtlWrite die v s
  | .heatCtlWrite die v => Sys2Proof.Machine.execHeatCtlWrite die v s
  | .hclr die => Sys2Proof.Machine.execHclr die s
  | .heatClearDone die => Sys2Proof.Machine.execHeatClearDone die s
  | .heatRead die idx => Sys2Proof.Machine.execHeatRead die idx s
  | .aliasInfoRead die => Sys2Proof.Machine.execAliasInfoRead die s
  | .fqHeadWrite v => Sys2Proof.Machine.execFqHeadWrite v s
  | .fqReplay v => Sys2Proof.Machine.execFqReplay v s
  | .fqReplayAll v => Sys2Proof.Machine.execFqReplayAll v s
  | .fqReplayFail v => Sys2Proof.Machine.execFqReplayFail v s
  | .ctxSuspend => Sys2Proof.Machine.execCtxSuspend s
  | .ctxResume => Sys2Proof.Machine.execCtxResume s
  | .ctxWb => Sys2Proof.Machine.execCtxWb s
  | .ctxWbDone asid => Sys2Proof.Machine.execCtxWbDone asid s
  | .wpLostRead => Sys2Proof.Machine.execWpLostRead s
  | .cutReq v => Sys2Proof.Machine.execCutReq v s
  | .cutRel v => Sys2Proof.Machine.execCutRel v s
  | .cutReduce asid podMax => Sys2Proof.Machine.execCutReduce asid podMax s
  | .cutComplete asid => Sys2Proof.Machine.execCutComplete asid s
  | .cutAbort asid => Sys2Proof.Machine.execCutAbort asid s
  | .lmemBoundWrite v => Sys2Proof.Machine.execLmemBoundWrite v s
  | .shootdownRange v => Sys2Proof.Machine.execShootdownRange v s
  | .shootdownAll v => Sys2Proof.Machine.execShootdownAll v s
  | .shootdownPerform => Sys2Proof.Machine.execShootdownPerform s
  | .sdStatOvfClear => Sys2Proof.Machine.execSdStatOvfClear s
  | .wpCtlWrite n v => Sys2Proof.Machine.execWpCtlWrite n v s
  | .keyLoad v => Sys2Proof.Machine.execKeyLoad v s
  | .keyErase v => Sys2Proof.Machine.execKeyErase v s
  | .keyCmdComplete => Sys2Proof.Machine.execKeyCmdComplete s
  | .strandWb v => Sys2Proof.Machine.execStrandWb v s
  | .strandDisc v => Sys2Proof.Machine.execStrandDisc v s
  | .strandCmdComplete => Sys2Proof.Machine.execStrandCmdComplete s
  | .strandTimerExpire => Sys2Proof.Machine.execStrandTimerExpire s
  | .fwUpdateGo v img => Sys2Proof.Machine.execFwUpdateGo v img s
  | .fwDieUpdate => Sys2Proof.Machine.execFwDieUpdate s
  | .fwUpdateComplete => Sys2Proof.Machine.execFwUpdateComplete s
  | .bootRootStart => Sys2Proof.Machine.execBootRootStart s
  | .bootOfferReceived links => Sys2Proof.Machine.execBootOfferReceived links s
  | .bootImageVerified img number => Sys2Proof.Machine.execBootImageVerified img number s
  | .hostLinkLost port => Sys2Proof.Machine.execHostLinkLost port s
  | .colrokLinkLost link => Sys2Proof.Machine.execColrokLinkLost link s
  | .ucieLinkFatal => Sys2Proof.Machine.execUcieLinkFatal s
  | .corePowerGate core => Sys2Proof.Machine.execCorePowerGate core s
  | .coreClockChange mhz => Sys2Proof.Machine.execCoreClockChange mhz s
  | .courseForm core islot => Sys2Proof.Machine.execCourseForm core islot s
  | .clauseEnter core islot => Sys2Proof.Machine.execClauseEnter core islot s
  | .clauseFetch core blk slot => Sys2Proof.Machine.execClauseFetch core blk slot s
  | .threadOverdue core blk slot => Sys2Proof.Machine.execThreadOverdue core blk slot s
  | .pendingWriteArrive core blk slot id => Sys2Proof.Machine.execPendingWriteArrive core blk slot id s
  | .signTimeout core blk slot => Sys2Proof.Machine.execSignTimeout core blk slot s
  | .waitmWake core blk slot => Sys2Proof.Machine.execWaitmWake core blk slot s
  | .waitmPoll core blk slot => Sys2Proof.Machine.execWaitmPoll core blk slot s
  | .queueWordAccept core blk slot => Sys2Proof.Machine.execQueueWordAccept core blk slot s
  | .matrixOpStart core => Sys2Proof.Machine.execMatrixOpStart core s
  | .matrixKblockComplete core => Sys2Proof.Machine.execMatrixKblockComplete core s
  | .accGrant core => Sys2Proof.Machine.execAccGrant core s
  | .plyOpStart core => Sys2Proof.Machine.execPlyOpStart core s
  | .plyOpComplete core => Sys2Proof.Machine.execPlyOpComplete core s
  | .plyMapObtain core blk => Sys2Proof.Machine.execPlyMapObtain core blk s
  | .sweepOpStart core => Sys2Proof.Machine.execSweepOpStart core s
  | .sweepIteration core => Sys2Proof.Machine.execSweepIteration core s
  | .segmentFillComplete core entry seg => Sys2Proof.Machine.execSegmentFillComplete core entry seg s
  | .copyAccept core => Sys2Proof.Machine.execCopyAccept core s
  | .copyChunkComplete core copy chunk => Sys2Proof.Machine.execCopyChunkComplete core copy chunk s
  | .cometAccept core => Sys2Proof.Machine.execCometAccept core s
  | .cometBurstRequest core comet => Sys2Proof.Machine.execCometBurstRequest core comet s
  | .cometBurstLand core comet burst => Sys2Proof.Machine.execCometBurstLand core comet burst s
  | .cometThreadStart core blk => Sys2Proof.Machine.execCometThreadStart core blk s
  | .blockEnd core blk => Sys2Proof.Machine.execBlockEnd core blk s
  | .blockPlace core => Sys2Proof.Machine.execBlockPlace core s
  | .blockPreempt core blk => Sys2Proof.Machine.execBlockPreempt core blk s
  | .blockResume core blk => Sys2Proof.Machine.execBlockResume core blk s
  | .skidBoundExpire core blk => Sys2Proof.Machine.execSkidBoundExpire core blk s
  | .nodeRead asid dev => Sys2Proof.Machine.execNodeRead asid dev s
  | .nodeKernelStart asid dev => Sys2Proof.Machine.execNodeKernelStart asid dev s
  | .nodeCond asid => Sys2Proof.Machine.execNodeCond asid s
  | .nodeWhile asid => Sys2Proof.Machine.execNodeWhile asid s
  | .nodeEvent asid dev => Sys2Proof.Machine.execNodeEvent asid dev s
  | .nodeHost asid dev => Sys2Proof.Machine.execNodeHost asid dev s
  | .nodeEnd asid => Sys2Proof.Machine.execNodeEnd asid s
  | .gridFinish asid launch => Sys2Proof.Machine.execGridFinish asid launch s
  | .eventMirrorWrite asid => Sys2Proof.Machine.execEventMirrorWrite asid s
  | .homeRequest core id => Sys2Proof.Machine.execHomeRequest core id s
  | .requestRetry core id => Sys2Proof.Machine.execRequestRetry core id s
  | .forcedPublish core id => Sys2Proof.Machine.execForcedPublish core id s
  | .wideReleaseComplete core id => Sys2Proof.Machine.execWideReleaseComplete core id s
  | .hostMemRequest r => Sys2Proof.Machine.execHostMemRequest r s
  | .hostSnoopResponse block => Sys2Proof.Machine.execHostSnoopResponse block s
  | .podRequest device r => Sys2Proof.Machine.execPodRequest device r s
  | .atomicopCompletion core id refused => Sys2Proof.Machine.execAtomicopCompletion core id refused s
  | .translationWalk core id => Sys2Proof.Machine.execTranslationWalk core id s
  | .faultEntryWrite asid => Sys2Proof.Machine.execFaultEntryWrite asid s
  | .contextHalt asid => Sys2Proof.Machine.execContextHalt asid s
  | .haltComplete asid => Sys2Proof.Machine.execHaltComplete asid s
  | .segmentWriteBackDone core entry seg => Sys2Proof.Machine.execSegmentWriteBackDone core entry seg s
  | .hostPortLinkUp port => Sys2Proof.Machine.execHostPortLinkUp port s
  | .colrokLinkUp link peer => Sys2Proof.Machine.execColrokLinkUp link peer s

end Sys2Proof.Machine
end

