-- ==== Sys2Proof/Machine/Time.lean ====
section
/-! DEFINITION. What passes with time (R12): a core cycle (R42, R54, R58, R307), a fabric cycle (R180, R311, R431), the work that a core's units do in a
cycle without a step of their own; and the moves of agents that the spec leaves free: replacement, transactions in flight, outside writes. -/

namespace Sys2Proof.Machine

open Sys2Proof

/-! ### A core cycle -/

/-- A SIGN timeout that has reached 0 withdraws its signature before the next cycle begins (R54). (DEDUCED, log entry 70.) -/
def Dev.expireSigns (m : Dev) (core : Nat) : Dev :=
  (m.core core).blocks.foldl (fun x b =>
    if b.bst == .running then b.threads.foldl (fun y (s, t) => if t.tmo == some 0 then y.signExpire core b.id s else y) x else x) m

/-- A thread of a resident block one core cycle later: its timeout and age (R54, R58), and since when it is overdue. (DEDUCED, log entry 70.) -/
def Thread.tick (t : Thread) (late : Bool) (cyc : Nat) : Thread :=
  { t with
    tmo := t.tmo.map (· - 1), age := min 131071 (t.age + 1)
    overdueAt := if late then some (t.overdueAt.getD cyc) else none }

/-- A block one core cycle later; the chunks of one that is away and past its skid do not run, so that no halt's bound counts for them (R304). -/
def Core.tickBlock (c : Core) (b : Block) (bound : Option Nat) : Block :=
  let skid := match b.skid with | some n => some (n - 1) | none => if b.bst != .preempted && c.inFlight b.id then bound.map (· - 1) else none
  if b.bst == .running then
    { b with
      skid := skid
      threads := b.threads.map fun (s, t) =>
        (s, if t.st == .free || t.st == .exited then t else t.tick (c.eligible b t && overdueIn b { t with age := t.age + 1 }) (c.cyc.toNat + 1)) }
  else { b with skid := skid }

/-- A core one core cycle later; `bound` gives the memory bound for blocks of a context that is halting (R307). -/
def Core.tick (c : Core) (bound : Nat → Option Nat) : Core :=
  { c with
    cyc := c.cyc + 1, hold := (c.hold.map fun (i, n) => (i, n - 1)).filter (fun e => e.2 != 0)
    matRun := c.matRun.map (fun r => { r with left := r.left - 1 }), blocks := c.blocks.map fun b => c.tickBlock b (bound b.asid) }

/-- The memory bound for a context whose halt line is raised and whose skid goes on. -/
def Dev.skidBound (m : Dev) (asid : Nat) : Option Nat :=
  match (m.ctx asid).bind fun x => x.halt with
  | some h => if h.skidded then none else some m.mgmt.lmem
  | none => none

/-- One core cycle passes on a core. -/
def Dev.coreCycle (m : Dev) (core : Nat) : Dev := let m1 := m.expireSigns core; m1.modCore core fun c => c.tick m1.skidBound

/-- What a core's units do in a cycle without a step of their own: accesses whose turn has come are tried (R201 to R206), held words and bound operations
enter queues with room (R227), woken threads read again, hints are carried out, tail events and exits that are due take place. -/
def Dev.coreWork (m : Dev) (ft : Features) (core : Nat) : Dev :=
  let m1 := ((m.publishForced ft core).pump ft core).prefPump ft core
  let m2 := (m1.core core).blocks.foldl (fun x b =>
    let x1 := (List.range 16).foldl (fun y k => y.retryBound core b.id k) x
    b.threads.foldl (fun y (s, t) =>
      let y1 := if t.st == .memWatch && (match t.watch with | some w => w.due | none => false) then y.tryWatch ft core b.id s else y
      if t.held.isEmpty then y1 else y1.acceptHeld core b.id s) x1) m1
  (m2.tails core).blockExits core

/-! ### A fabric cycle -/

/-- An access that was refused waits one fabric cycle less (R180). -/
def Access.tick (a : Access) : Access := { a with phase := match a.phase with | .refused n => .refused (n - 1) | p => p }

/-- A WAITM thread that polls waits one fabric cycle less (R431). -/
def Thread.fabricTick (t : Thread) : Thread := { t with watch := t.watch.map fun w => { w with poll := w.poll.map (· - 1) } }

/-- A context one fabric cycle later: the time of its cut, and a halt raised in an earlier cycle keeps its primary fault (R305, R311).
(DEDUCED, log entry 49.) -/
def Context.fabricTick (c : Context) : Context :=
  { c with
    cut := if c.cut.st == .running then { c.cut with elapsed := c.cut.elapsed + 1 } else c.cut
    halt := c.halt.map fun h => { h with settled := true } }

/-- The home slices one fabric cycle later: refused engines wait one cycle less, and the claims made so far are no longer of this cycle (R180, R181). -/
def HomeState.fabricTick (h : HomeState) : HomeState :=
  { h with refused := h.refused.map (fun x => { x with left := x.left - 1 }), claims := h.claims.map fun x => { x with fresh := false } }

/-- One fabric cycle passes; a cut whose limit has passed aborts first (R311). -/
def Dev.fabricCycle (m0 : Dev) : Dev :=
  let m := m0.ctxs.foldl (fun x e => x.abortLate e.1) m0
  let quiet (c : Core) : Core := { c with accs := c.accs.map Access.tick }
  { { m with cores := m.cores.map fun (e : Nat × Core) => (e.1, quiet e.2) }.mapThreads Thread.fabricTick with
    ctxs := m.ctxs.map (fun (a, c) => (a, c.map Context.fabricTick)), home := m.home.fabricTick
    dies := m.dies.map fun (e : Nat × DieCtl) => (e.1, e.2.settleHeat) }

/-- Time passes: one core cycle on every core, and one fabric cycle (log entry 3). -/
def Dev.passTime (m : Dev) (ft : Features) : Dev :=
  let cores := List.range ft.coreCount
  ((cores.foldl (fun x i => x.coreWork ft i) (cores.foldl Dev.coreCycle m).fabricCycle).serveOutsideAll ft).serviceHeld ft

/-! ### Moves that are no steps of the table -/

/-- Replacement may choose a block: it holds no line that a hint retains, and is marked first to evict where a block of its slice is (R403). -/
def Dev.mayEvict (m : Dev) (ft : Features) (block : Nat) : Bool :=
  let slice (k : Nat) : Nat × Nat := (m.dieOfLoc ft (512 * k), m.sliceOfLoc ft (512 * k))
  match mget none m.l2 block with
  | some b => b.keep.isEmpty && (!b.strm.isEmpty || !m.l2.any fun (k, x) => slice k == slice block && x.any fun y => !y.strm.isEmpty && y.keep.isEmpty)
  | none => false

/-- Replacement may choose a line of a core's L1: one that a hint marks first to evict, where there is such a line (R403). -/
def Core.mayEvictL1 (c : Core) (line : Nat) : Bool := c.strm.contains line || !c.l1.any fun e => c.strm.contains (e.1 / 128)

/-- A line leaves L1, and with it its mark. -/
def Dev.evictL1 (m : Dev) (core line : Nat) : Dev :=
  (m.dropL1 core fun a _ => a / 128 == line).modCore core fun c => { c with strm := c.strm.filter (· != line) }

/-- The owner of memory outside the device acts on `n` bytes of it in one step: what the device holds of the line is given back first (R323, R330). `f` gives
the new bytes from the old ones; none where it writes nothing. -/
def Dev.outsideAct (m : Dev) (pa n : Nat) (f : List Byte → Option (List Byte)) : Dev :=
  if m.isLocal pa then m
  else
    match (recallAll (m.holders pa n)).go m with
    | (.error _, m1) => m1
    | (.ok _, m1) =>
      let m2 := (m1.giveBack (pa / 512 * 512) 512 (2 ^ 13) true).dropL2 (pa / 512)
      match f (Memory.read m2.mem pa n) with
      | none => m2
      | some l =>
        { m2 with mem := Memory.write m2.mem pa l, poisoned := m2.poisoned.filter fun a => !(pa ≤ a && a < pa + n) }.noteWrite
          (if isDevLoc pa then podAgent (podOf pa) else hostAgent (portOf pa)) pa n

/-- The owner writes a byte. -/
def Dev.outsideWrite (m : Dev) (pa : Nat) (b : Byte) : Dev := m.outsideAct pa 1 fun _ => some [b]

/-- The owner performs an atomic of 4, 8 or 16 bytes, aligned to its size, in one step: no other access falls between its read and its write (R199). -/
def Dev.outsideAtomic (m : Dev) (pa size : Nat) (op : AgentOp) : Dev :=
  if (size = 4 || size = 8 || size = 16) && pa % size = 0 then m.outsideAct pa size fun old => (agentHomeOp op size).new old size else m

/-- A move of an agent that is neither a step of the table nor a word: time, replacement (left open by R173, R174, R313), transactions in flight (R180),
writes of memory by those it belongs to (a core cycle passes when its issue slots have done what is due in it), uncorrectable errors (R296), the watch table's room (R431).
(DEDUCED, log entry 71; DEDUCED, log entry 73.) (DESIGN CHOICE, log entry 112.) -/
def Dev.other (m : Dev) (ft : Features) (mv : Move) : Dev :=
  match mv with
  | .event _ => m
  | .issue _ _ => m
  | .coreCycle core =>
    if core < ft.coreCount && m.cycleOver core then (m.coreCycle core).coreWork ft core else m
  | .fabricCycle => (m.fabricCycle.serveOutsideAll ft).serviceHeld ft
  | .evictL1 core line => if (m.core core).mayEvictL1 line then m.evictL1 core line else m
  | .evictL2 block => if m.mayEvict ft block then m.dropL2 block else m
  | .evictLine core asid line => m.modCore core fun c => c.evictLine asid line
  | .displace core blk => m.displace ft core blk
  | .linkTrains link => m.modMgmt fun g => g.linkTrains ft link
  | .portTrains port => m.modMgmt fun g => g.portTrains port
  | .bootChild link n => m.modMgmt fun g => g.bootChild link n
  | .evictFar die block => m.dropFar die (512 * block) 512
  | .evictTlb core asid page => m.modCore core fun c => { c with tlb := c.tlb.filter fun e => !(e.asid == asid && e.page == page) }
  | .grainBusy pa => { m with home := { m.home with busy := if m.home.busy.contains pa then m.home.busy else pa :: m.home.busy } }
  | .grainIdle pa => { m with home := { m.home with busy := m.home.busy.filter (· != pa) } }
  | .outsideWrite pa b => m.outsideWrite pa b
  | .outsideAtomic pa size op => m.outsideAtomic pa size op
  | .peerNumber link n => m.modMgmt fun g => g.peerNumber link n
  | .podPath dev up => m.modMgmt fun g => g.podPath dev up
  | .hart n r => if n < 16 && m.backed ft r.pa && m.linkUp ft r.pa then m.askOutside ft (.hart n) r else m
  | .registerRead off => m.readRegister ft off
  | .poison pa => { m with poisoned := if m.poisoned.contains pa then m.poisoned else pa :: m.poisoned }
  | .watchTable full => { m with watchFull := full }

end Sys2Proof.Machine
end

