-- ==== Sys2Proof/Machine/Agenda.lean ====
section
/-! DEFINITION. The device steps that may be due where no move says which agent goes next (log entry 3): a list made from the state, and the first of
them that changes it. The order is the model's own; no rule of the spec orders agents so. -/

namespace Sys2Proof.Machine

open Sys2Proof

/-- Steps of a context: its fault queue, halt, events, walker, cut. -/
def Context.agenda (c : Context) : List Instr :=
  let a := c.asid
  [.faultEntryWrite a, .contextHalt a, .haltComplete a, .ctxDestroyComplete a, .eventMirrorWrite a, .ctxWbDone a, .nodeRead a false, .nodeRead a true,
   .nodeKernelStart a false, .nodeKernelStart a true, .nodeCond a, .nodeWhile a, .nodeEvent a false, .nodeEvent a true, .nodeHost a false,
   .nodeHost a true, .nodeEnd a, .cutComplete a, .cutReduce a none, .cutAbort a]

/-- Steps of an outstanding access. -/
def Access.agenda (a : Access) (core : Nat) : List Instr :=
  match a.phase with
  | .new => if a.wideDone then [] else [.wideReleaseComplete core a.id]
  | .walk => [.translationWalk core a.id]
  | .home => [.homeRequest core a.id]
  | .refused _ => [.requestRetry core a.id]
  | .publish => [.forcedPublish core a.id]
  | .atomicOp _ => [.atomicopCompletion core a.id false]

/-- The steps of a list while a condition holds. -/
def stepsIf (b : Bool) (l : List Instr) : List Instr := if b then l else []

/-- Steps of a thread. -/
def Thread.agenda (t : Thread) (c : Core) (b : Block) (core slot : Nat) : List Instr :=
  List.flatten
    [(t.pend.filter fun p => p.val.isSome).map fun p => Instr.pendingWriteArrive core b.id slot p.id,
     stepsIf t.watch.isSome [.waitmWake core b.id slot],
     stepsIf (!t.held.isEmpty) [.queueWordAccept core b.id slot],
     stepsIf (standsReady b t && (c.clause b.asid t.pc).isNone) [.clauseFetch core b.id slot],
     stepsIf (overdueIn b t && t.overdueAt.isNone) [.threadOverdue core b.id slot]]

/-- Steps of a block by its BSTATE. -/
def BState.agenda (x : BState) (core blk : Nat) : List Instr :=
  match x with
  | .running => [.cometThreadStart core blk, .plyMapObtain core blk]
  | .preempted => [.blockResume core blk]
  | .exited => [.blockEnd core blk, .plyMapObtain core blk]
  | _ => []

/-- Steps of a block. -/
def Block.agenda (b : Block) (c : Core) (core : Nat) : List Instr :=
  List.flatten
    [b.threads.flatMap fun p => p.2.agenda c b core p.1,
     stepsIf (!b.started) [.blockPlace core],
     stepsIf b.asked [.blockPreempt core b.id],
     stepsIf (b.skid == some 0) [.skidBoundExpire core b.id],
     b.bst.agenda core b.id]

/-- Steps of a segment of a skein entry. -/
def Seg.agenda (g : Seg) (core entry seg : Nat) : List Instr :=
  stepsIf (g.st == .filling) [.segmentFillComplete core entry seg] ++ stepsIf g.wb.isSome [.segmentWriteBackDone core entry seg]

/-- Steps of the skein entries of a core. -/
def Core.skeinAgenda (c : Core) (core : Nat) : List Instr :=
  c.skeins.flatMap fun p => match p.2 with | some s => s.segs.flatMap fun g => g.2.agenda core p.1 g.1 | none => []

/-- Steps of a core's units. -/
def Core.unitAgenda (c : Core) (core : Nat) : List Instr :=
  List.flatten
    [stepsIf c.matRun.isSome [.matrixKblockComplete core],
     stepsIf (c.matRun.isNone && !c.matQ.isEmpty) [.matrixOpStart core],
     stepsIf (!c.accWaits.isEmpty) [.accGrant core],
     stepsIf c.plyRun.isSome [.plyOpComplete core],
     stepsIf (c.plyRun.isNone && !(c.plyQ.isEmpty && c.blocks.all (fun b => b.abandoned.isNone))) [.plyOpStart core],
     stepsIf c.sweepRun.isSome [.sweepIteration core],
     stepsIf (c.sweepRun.isNone && !(c.sweepQ.isEmpty && c.sweepAside.isEmpty)) [.sweepOpStart core],
     stepsIf (!c.xferQ.isEmpty) [.copyAccept core, .cometAccept core],
     c.copies.flatMap fun r => r.left.map fun j => Instr.copyChunkComplete core r.org.id j,
     c.comets.flatMap fun r => (r.inFlight.map fun x => Instr.cometBurstLand core r.org.id x) ++ [Instr.cometBurstRequest core r.org.id]]

/-- Steps of a core; a SIGN timeout comes after the signatures of its core cycle (R54). -/
def Core.agenda (c : Core) (core : Nat) : List Instr :=
  List.flatten
    [c.accs.flatMap fun a => a.agenda core,
     c.skeinAgenda core,
     c.blocks.flatMap fun b => b.agenda c core,
     c.unitAgenda core,
     stepsIf (!c.blocks.isEmpty) ((List.range 4).flatMap fun i => [Instr.clauseEnter core i, Instr.courseForm core i]),
     c.blocks.flatMap fun b => (b.threads.filter fun p => p.2.tmo == some 0).map fun p => Instr.signTimeout core b.id p.1]

/-- The cores on which placement has something to do: for each launch with a block left, and on each die with a block pending. -/
def Dev.placeAgenda (m : Dev) (ft : Features) : List Instr :=
  ((m.launches.filter fun l => l.nextBlock < l.rec_.blocks).filterMap fun l => (m.chooseCore ft l).map Instr.blockPlace) ++
    ((List.range 4).filter fun d => !(m.pendingOn ft d).isEmpty).map fun d => .blockPlace (ft.coresPerDie * d)

/-- Steps of the device's own management. -/
def Mgmt.agenda (g : Mgmt) : List Instr :=
  List.flatten
    [stepsIf (g.boot == .waiting && g.bootRoot) [.bootRootStart],
     stepsIf g.keyCmd.isSome [.keyCmdComplete],
     stepsIf g.strandBusy.isSome [.strandCmdComplete],
     stepsIf (!g.sdQueue.isEmpty) [.shootdownPerform],
     stepsIf g.fwBusy.isSome [.fwDieUpdate, .fwUpdateComplete]]

/-- Every step that may be due. -/
def Dev.agenda (m : Dev) (ft : Features) : List Instr :=
  m.mgmt.agenda ++ ((List.range 4).filter fun d => (m.die d).hclr).map Instr.heatClearDone ++ (m.snoops.map Instr.hostSnoopResponse) ++
    (m.ctxs.flatMap fun (_, c) => match c with | some x => x.agenda | none => []) ++ (m.launches.map fun l => .gridFinish l.asid l.seq) ++
    (m.home.forced.map fun x => .forcedPublish x.1 m.nextId) ++ (m.cores.flatMap fun (i, c) => c.agenda i) ++ m.placeAgenda ft

/-- What the first step of a list that changes the state leaves. -/
def firstChange (l : List Instr) (s : State) : Option State :=
  match l with
  | [] => none
  | i :: r =>
    match exec i s with
    | .next t => if t = s then firstChange r s else some t
    | _ => firstChange r s

/-- The machine goes on of itself: a step that is due, else time passes (log entry 3). -/
def State.goOn (s : State) : State :=
  match firstChange (s.m.agenda s.feat) s with
  | some t => t
  | none => { s with m := s.m.passTime s.feat }

end Sys2Proof.Machine
end

