-- ==== Sys2Proof/Machine/Place.lean ====
section
/-! DEFINITION. A clause placed in the instruction buffer for its first word to run (log entry 5). -/

namespace Sys2Proof.Machine

open Sys2Proof

/-- A launch record of one thread with default fields (R289). -/
def bareRecord : LaunchRec :=
  { entry := 0, args := 0, items := [], gx := 1, gy := 1, gz := 1, affinity := 0, slots := [0, 0, 0, 0, 0, 0, 0, 0], nthr := 1, cres := 0,
    stash := 0, amax := 0, fairwin := 4096, plykeep := false, nofair := false, prio := 0, lrec := 0 }

/-- A resident block of one thread at entry, in context 0. -/
def bareBlock : Block :=
  { id := 0, asid := 0, launch := 0, index := 0, rec_ := bareRecord, bidx := 0, bidy := 0, bidz := 0, image := 0, prio := 0, winBase := 0,
    winSize := 0, bst := .running, rstLabel := 0, rstMask := 0, restarts := 0, mkp := 0, tiles := [], plys := [], saved := [],
    stitches := [], threads := [(0, { Fresh.thread with st := .ready, inCourse := true })], cometCount := 0, todo := [], started := true, abandoned := none, skid := none, imaged := false, passed := false, asked := false }

/-- A running context with nothing in it (R280 to R282). -/
def bareContext (asid : Nat) : Context :=
  { asid := asid, pmask := 0xF, pcap := 0, pool := 0, imgn := 1, stat := 0, st := .running, main := Fresh.chain, dev := Fresh.chain, heads := [],
    devQ := [], events := 0, mirror := 0, dropped := 0, dbovf := false, fqHead := 0x100, fqTail := 0x100, waiting := [], tagged := [],
    nextTag := 1, halt := none, susp := false, wb := false, wpLost := 0, cut := Fresh.cut, wps := [] }

/-- Places the clause whose bytes are `w` from address 0 on in core 0's instruction buffer, with one member that has entered it.
(DEDUCED, log entry 5.) -/
def Dev.placeClause (m : Dev) (w : Nat) : Dev :=
  let hdr : DWord := BitVec.ofNat 64 w
  let words := (List.range (headerOf hdr).count).map fun i => BitVec.ofNat 64 (w / 2 ^ (64 * (i + 1)))
  let c := m.core 0
  { m.setCore 0 { c with
      blocks := [bareBlock]
      ibuf := [{ asid := 0, addr := 0, hdr := hdr, words := words, reads := [] }]
      courses := [{ islot := 0, blk := 0, addr := 0, members := [0], entered := true, pos := 0, idx := 0, last := none }] } with
    ctxs := [(0, some (bareContext 0))], moves := [] }

end Sys2Proof.Machine
end

