-- ==== Sys2Proof/Machine/Step.lean ====
section
/-! DEFINITION. One step of the machine: the next move in the list of moves, or, where that list is empty, the next word of a course
in flight, or a device step that is due, or time passing (log entry 3). -/

namespace Sys2Proof.Machine

open Sys2Proof

/-- What follows a word: Dev.afterWord on the next state; a stop stays a stop. -/
def afterExec (cu : Cursor) (o : Host.Outcome State Fault Refusal) : Host.Outcome State Fault Refusal :=
  match o with
  | .next s => .next { s with m := s.m.afterWord cu }
  | .fault r => .fault r
  | .refused r => .refused r

/-- An issue slot issues its course's next word to the next member. -/
def stepIssue (s : State) (core islot : Nat) : Host.Outcome State Fault Refusal :=
  match s.m.issueAt core islot with
  | some (cu, i) => afterExec cu (exec i { s with m := { s.m with cur := some cu } })
  | none => .next { s with m := s.m.dropCourse core islot }

/-- One move; an issue slot with no word to issue in this core cycle issues none. -/
def stepMove (s : State) (mv : Move) : Host.Outcome State Fault Refusal :=
  match mv with
  | .event i => exec i s
  | .issue core islot => if s.m.mayIssue core islot then stepIssue s core islot else .next s
  | mv => .next { s with m := s.m.other s.feat mv }

/-- One step. (DESIGN CHOICE, log entry 3.) -/
def step (s : State) : Host.Outcome State Fault Refusal :=
  match s.m.moves with
  | mv :: r => stepMove { s with m := { s.m with moves := r } } mv
  | [] =>
    match s.m.firstIssue with
    | some (core, islot) => stepIssue s core islot
    | none => .next s.goOn

/-- The clause that a word of the table stands for is placed in the instruction buffer of core 0, as a course of one member that has
entered it, so that the next step issues its first word (DEDUCED, log entry 5). -/
def State.withFetchWord (s : State) (nbits w : Nat) : State := { s with m := s.m.placeClause (w % 2 ^ nbits) }

end Sys2Proof.Machine
end

