-- ==== Sys2Proof/Safety.lean ====
section
/-! DEFINITION. What a safe run is, and the terms in which the statements speak: a word that runs for its member, what it leaves alone, a host
operation that the device answers. -/

namespace Sys2Proof

open Sys2Proof.Machine

/-! ### Safe runs -/

/-- No feature is accepted that the part does not support (R4). -/
def featuresOk (s : State) : Prop := s.feat.acc &&& ~~~s.feat.sup = 0

/-- The step neither faults nor refuses. -/
def stepsOn (s : State) : Prop := ∃ t, step s = .next t

/-- A run of `k` steps that stays on next states within the supported features. -/
def safeRun (k : Nat) (s : State) : Prop :=
  match k with
  | 0 => featuresOk s
  | n + 1 => featuresOk s ∧ ∃ t, step s = .next t ∧ safeRun n t

end Sys2Proof

namespace Sys2Proof.Machine

open Sys2Proof

/-! ### Words -/

/-- A word runs for a member, with environment `e` and thread `t`, whose guard holds (R69). -/
def State.runs (s : State) (c : Ctl) (e : Env) (t : Thread) : Prop := s.member = some (e, t) ∧ t.guard c = true

/-- `s` after a word that changes only the member's thread: the marker of R78, then `f`. -/
def State.ran (s : State) (e : Env) (c : Ctl) (f : Thread → Thread) : State := { s with m := e.mod s.m fun x => f (x.mark c) }

/-- `s` after a word that changes more than the thread: the marker, then `f`. -/
def State.after (s : State) (e : Env) (c : Ctl) (f : Dev → Dev) : State := { s with m := f (s.m.marked e.cu c) }

/-- Everything but the thread in slot `slot` of block `blk` on core `core` is the same in both states. -/
def onlyThread (s u : State) (core blk slot : Nat) : Prop :=
  u.feat = s.feat ∧ u.m = { s.m with cores := u.m.cores } ∧ (∀ k, k ≠ core → u.m.core k = s.m.core k) ∧
    u.m.core core = { s.m.core core with blocks := (u.m.core core).blocks } ∧
    (∀ b, b ≠ blk → (u.m.core core).block b = (s.m.core core).block b) ∧
    ∀ j, j ≠ slot → u.m.thread core blk j = s.m.thread core blk j

/-- The word is one of those whose only effect is on the member's thread, outside its place in the program: arithmetic, moves, MVS and the marks. -/
def changesRegistersOnly : Instr → Bool
  | .nop _ _ | .add _ _ | .sub _ _ | .mul _ _ | .mulh _ _ | .mad _ _ | .min _ _ | .max _ _ | .abs _ _ | .neg _ _ | .and _ _ | .or _ _
  | .xor _ _ | .not _ _ | .shl _ _ | .shr _ _ | .sar _ _ | .bfx _ _ | .bfi _ _ | .popc _ _ | .clz _ _ | .cmp _ _ | .sel _ _ | .mov _ _
  | .lea _ _ | .movi _ _ | .fadd _ _ | .fsub _ _ | .fmul _ _ | .ffma _ _ | .fmin _ _ | .fmax _ _ | .fcmp _ _ | .fclass _ _ | .frcp _ _
  | .frsq _ _ | .fexp2 _ _ | .flog2 _ _ | .cvt _ _ | .cvtPk _ _ | .cvtUp _ _ | .yield _ _ | .pfx _ _ | .waitb _ _ | .mvs _ _ => true
  | _ => false

/-- The common fields of an instruction word; none for a device step. -/
def ctlOfWord (i : Instr) : Option Ctl := (encode i).map fun p => ctlOf p.2

/-- The instruction word is one of the eleven that stand last in a clause (R71). -/
def isLastOnly (i : Instr) : Bool := match encode i with | some (k, w) => lastOnly k (opcOf w).toNat | none => false

/-- The member's thread in another state. -/
def State.threadOf (s : State) (e : Env) : Option Thread := s.m.thread e.cu.core e.cu.blk e.cu.slot

/-- The core of a member has no access outstanding, and nothing of its thread is owed that an access would have to follow. -/
def State.quiet (s : State) (e : Env) (t : Thread) : Prop :=
  (s.m.core e.cu.core).accs = [] ∧ (s.m.core e.cu.core).opsOf e.cu.blk e.cu.slot = [] ∧ (s.m.core e.cu.core).flushing e.cu.blk = false ∧
    t.acq = [] ∧ s.m.suspended e.blk.asid (.access e.cu.core s.m.nextId) = false

/-- A skein word of the member's thread is outstanding: every access that the thread issues waits for it, behind an SKFLUSH or SKQUERY as behind an SKMAP (R155, R415;
DEDUCED, log entry 31). -/
def State.heldBack (s : State) (e : Env) : Prop :=
  ∃ a ∈ (s.m.core e.cu.core).accs, a.blk = e.cu.blk ∧ a.slot = e.cu.slot ∧ a.id < s.m.nextId ∧ a.kind.skein = true

/-- The word issues access `a`: the access is the youngest outstanding one of its core, its destination registers are pending, and neither memory nor
the stash nor a register has changed. -/
def State.issues (s : State) (e : Env) (t : Thread) (i : Instr) (a : Access) (dst : List Nat) : Prop :=
  ∃ u t', exec i s = .next u ∧ (u.m.core e.cu.core).accs = (s.m.core e.cu.core).accs ++ [{ a with id := s.m.nextId, mark := a.narrow || t.narrowRel }] ∧ u.threadOf e = some t' ∧
    t'.pend = t.pend ++ (if dst.isEmpty then [] else [{ id := s.m.nextId, dst := dst, dead := [], val := none }]) ∧ t'.regs = t.regs ∧ t'.pred = t.pred ∧
    u.m.mem = s.m.mem ∧ (u.m.core e.cu.core).stash = (s.m.core e.cu.core).stash

/-- The machine once access `a` of a word has joined its core's outstanding ones with its destination registers pending, and before it is tried. -/
def State.issued (s : State) (e : Env) (c : Ctl) (a : Access) (dst : List Nat) : Dev := (s.m.marked e.cu c).joinAcc e.cu a dst

/-! ### Memory -/

/-- Nothing but memory at rest stands behind the bytes [loc, loc + n): they are local; no core holds a skein entry or a line in L1; no block is in L2 or
held by a host, by another pod device or by a slice of another die; no transaction, claim or outside request, no mark of a core-scope release and no poison is left anywhere. -/
def Dev.atRest (m : Dev) (loc n : Nat) : Prop :=
  0 < n ∧ (∀ i, i < n → m.isLocal (loc + i) = true) ∧ (∀ p ∈ m.cores, p.2.skeins = [] ∧ p.2.l1 = []) ∧ m.l2 = [] ∧ m.hostHeld = [] ∧ m.home.busy = [] ∧
    m.home.claims = [] ∧ m.home.outside = [] ∧ m.home.refused = [] ∧ m.marks = [] ∧ m.poisoned = [] ∧ m.far = [] ∧ m.podOwned = []

/-- No core holds a skein entry or a line in L1. -/
def Dev.bare (m : Dev) : Prop := ∀ p ∈ m.cores, p.2.skeins = [] ∧ p.2.l1 = []

/-- No host may hold a line of the device's memory, and no other pod device owns one (R322, R330). -/
def Dev.alone (m : Dev) : Prop := m.hostHeld = [] ∧ m.podOwned = []

/-- A service hart's write of a record at `pa` reaches memory and nothing else: the record can be reached, no core holds a line or a word, no agent outside a line,
nobody watches. -/
def Dev.records (m : Dev) (ft : Features) (pa : Nat) : Prop := m.recordCause ft pa = none ∧ m.watching = false ∧ m.bare ∧ m.alone

/-- No block of the core has a ply map in its kept-map area (R276). -/
def Dev.unsaved (m : Dev) (core : Nat) : Prop := ∀ b ∈ (m.core core).blocks, b.saved = [] ∧ ∀ k, b.ply k ≠ .saved

/-- A page of coherent, uncompressed memory in plaintext. -/
def Page.simple (pg : Page) : Prop := pg.cc = 2 ∧ pg.comp = none ∧ pg.key = 0

/-- The bytes at home of `u` are those of `s` with the bytes `l` at `loc`. -/
def Dev.wrote (s u : Dev) (loc : Nat) (l : List Byte) : Prop :=
  ∀ x, u.homeByte 0 x = if loc ≤ x ∧ x < loc + l.length then l.getD (x - loc) 0 else s.homeByte 0 x

/-- A read of any byte, wherever its current value is held, obtains in `u` what it obtains in `s`, but for the bytes `l` at `loc`. -/
def Dev.shows (s u : Dev) (loc : Nat) (l : List Byte) : Prop :=
  ∀ x, u.visible 0 x 1 = if loc ≤ x ∧ x < loc + l.length then [l.getD (x - loc) 0] else s.visible 0 x 1

/-- The core's translation cache holds the page of an address, and an access with that need passes its checks (R172, R313). -/
def Dev.mapped (m : Dev) (ft : Features) (core asid va : Nat) (need : Need) (pg : Page) : Prop :=
  ∃ l, (m.core core).tlbFind asid va = some l ∧ 12 ≤ l.log ∧ m.checkLeaf ft l asid va need = .ok pg

/-- The core reads the bytes `l` at an address: its L1 holds them, of a page whose translation is cached and that may be read so. -/
def Dev.reads (m : Dev) (ft : Features) (core asid va : Nat) (need : Need) (l : List Byte) : Prop :=
  va + l.length ≤ 2 ^ 57 ∧ (m.core core).storesAhead va l.length = false ∧
    ∃ pg, m.mapped ft core asid va need pg ∧ pg.comp = none ∧ (m.core core).l1Bytes pg.loc l.length = some l

/-- The same for bytes that are read `w` at a time. -/
def Dev.readsBy (m : Dev) (ft : Features) (core asid va w : Nat) (l : List Byte) : Prop :=
  ∀ i, i < l.length / w → m.reads ft core asid (va + w * i) .read ((l.drop (w * i)).take w)

/-- The core reads every aligned word of [va, va + n) as the function `f` of addresses gives its bytes. -/
def Dev.sees (m : Dev) (ft : Features) (core asid : Nat) (f : Nat → Byte) (va n : Nat) : Prop :=
  ∀ w, va / 4 ≤ w → w < (va + n + 3) / 4 → m.reads ft core asid (4 * w) .read ((List.range 4).map fun i => f (4 * w + i))

/-- The walker's access to a doubleword with that need passes its checks, and plain memory at rest answers it; the
die of core 0 has a walk free (R172, R312, R313). -/
def Dev.walkerAt (m : Dev) (ft : Features) (asid va : Nat) (need : Need) (pg : Page) : Prop :=
  ∃ l, va < 2 ^ 57 ∧ (m.core 0).missed = [] ∧ m.walksBefore ft 0 m.nextId < 64 ∧ m.walk ft asid va = .ok l ∧ m.checkLeaf ft l asid va need = .ok pg ∧ pg.simple ∧
    m.atRest pg.loc 8

/-- The walker reads the doubleword `v` at an address. -/
def Dev.walkerSees (m : Dev) (ft : Features) (asid va v : Nat) : Prop :=
  v < 2 ^ 64 ∧ ∃ pg, m.walkerAt ft asid va .read pg ∧ m.homeBytes 0 pg.loc 8 = toBytes 8 v

/-- No chain of the context has a node that has not started: a change of its event vector starts none (R288). -/
def Context.still (c : Context) : Prop := ∀ dev, (c.chain dev).node.isSome = true → (c.chain dev).started = true

/-- A request of the core is served at its home `k` times, one after the other. -/
def State.served (u : State) (core id k : Nat) (v : State) : Prop :=
  match k with
  | 0 => v = u
  | n + 1 => ∃ w, exec (.homeRequest core id) u = .next w ∧ State.served w core id n v

/-! ### Host operations -/

/-- The device answers host operations: it is not in recovery (R335). -/
def State.answers (s : State) : Prop := s.m.mgmt.boot ≠ .recovery

/-- `s` with another device state. -/
def State.withDev (s : State) (m : Dev) : State := { s with m := m }

/-- The context of an ASID exists with the given contents. -/
def State.hasCtx (s : State) (asid : Nat) (c : Context) : Prop := s.m.ctx asid = some c

end Sys2Proof.Machine
end

