-- ==== Sys2Proof/Certificates/Slice0/Obligations.lean ====
section
/-! DEFINITION. The statements for the provers, from the spec's rules. In them `s.runs c e t` is a word run for a member of a course whose guard
holds, `e` being what the word sees of the machine around its thread `t`; `s.ran e c f` is `s` with the park marker and then `f` applied to that
thread, and nothing else changed. The rules that a statement follows stand in its docstring. -/

set_option linter.unusedVariables false

open Sys2Proof Sys2Proof.Machine

/-- R343, R421, R391, R385, R386, R341, R393 under the integer mould (R337): sums, differences, products, the lesser and greater, absolute value
and negation, formed exactly and written wrapped or clamped.

R344, R396, R432, R395, R408, R347, R402, R354: the words over the bits of their sources.

R347, R355, R410, R389, R384, R390: fields, comparison, selection, copies, addresses, immediates. -/
def Obligations.IntegerWords : Prop :=
  (∀ (s : State) (c : Ctl) (f : RRR) (e : Env) (t : Thread), s.runs c e t →
    exec (.add c f) s = .next (s.ran e c fun x => putInt f (iSat f) (opA f x + opB e f x) x) ∧
    exec (.sub c f) s = .next (s.ran e c fun x => putInt f (iSat f) (opA f x - opB e f x) x) ∧
    exec (.mul c f) s = .next (s.ran e c fun x => putInt f (iSat f) (opA f x * opB e f x) x) ∧
    exec (.mulh c f) s = .next (s.ran e c fun x => putInt f false (opA f x * opB e f x / ((2 ^ intW f.ty : Nat) : Int)) x) ∧
    exec (.mad c f) s = .next (s.ran e c fun x => putInt f (iSat f) (opA f x * opB e f x + opC f x) x) ∧
    exec (.min c f) s = .next (s.ran e c fun x => putInt f false (min (opA f x) (opB e f x)) x) ∧
    exec (.max c f) s = .next (s.ran e c fun x => putInt f false (max (opA f x) (opB e f x)) x) ∧
    exec (.abs c f) s = .next (s.ran e c fun x => putInt f (iSat f) ((opA f x).natAbs : Int) x) ∧
    exec (.neg c f) s = .next (s.ran e c fun x => putInt f (iSat f) (-opA f x) x)) ∧
  (∀ (s : State) (c : Ctl) (f : RRR) (e : Env) (t : Thread), s.runs c e t →
    exec (.and c f) s = .next (s.ran e c fun x => x.putBits (intW f.ty) f.d.toNat (rawA f x &&& rawB e f x)) ∧
    exec (.or c f) s = .next (s.ran e c fun x => x.putBits (intW f.ty) f.d.toNat (rawA f x ||| rawB e f x)) ∧
    exec (.xor c f) s = .next (s.ran e c fun x => x.putBits (intW f.ty) f.d.toNat (rawA f x ^^^ rawB e f x)) ∧
    exec (.not c f) s = .next (s.ran e c fun x => x.putBits (intW f.ty) f.d.toNat (2 ^ intW f.ty - 1 - rawA f x)) ∧
    exec (.shl c f) s = .next (s.ran e c fun x => x.putBits (intW f.ty) f.d.toNat
      (if intW f.ty ≤ shiftCount e f x then 0 else rawA f x * 2 ^ shiftCount e f x % 2 ^ intW f.ty)) ∧
    exec (.shr c f) s = .next (s.ran e c fun x => x.putBits (intW f.ty) f.d.toNat
      (if intW f.ty ≤ shiftCount e f x then 0 else rawA f x / 2 ^ shiftCount e f x)) ∧
    exec (.sar c f) s = .next (s.ran e c fun x => x.putBits (intW f.ty) f.d.toNat
      (wrapInt (signExtend (rawA f x) (intW f.ty) / ((2 ^ min (shiftCount e f x) (intW f.ty) : Nat) : Int)) (intW f.ty))) ∧
    exec (.popc c f) s = .next (s.ran e c fun x => x.putBits (intW f.ty) f.d.toNat
      ((List.range (intW f.ty)).filter fun i => (rawA f x).testBit i).length) ∧
    exec (.clz c f) s = .next (s.ran e c fun x => x.putBits (intW f.ty) f.d.toNat (intW f.ty - bitLen (rawA f x)))) ∧
  (∀ (s : State) (c : Ctl) (f : RRR) (e : Env) (t : Thread), s.runs c e t →
    exec (.bfx c f) s = .next (s.ran e c fun x =>
      let ctl := (x.reg f.b.toNat).toNat
      let w := intW f.ty
      let pos := min (ctl % 256) w
      let len := min (ctl / 256 % 256) w
      let v := rawA f x / 2 ^ pos % 2 ^ len
      x.putBits w f.d.toNat (if len = 0 then 0 else if f.md.getLsbD 0 then wrapInt (signExtend v len) w else v)) ∧
    exec (.bfi c f) s = .next (s.ran e c fun x =>
      let ctl := (x.reg f.c.toNat).toNat
      let w := intW f.ty
      let pos := min (ctl % 256) w
      let n := min (pos + min (ctl / 256 % 256) w) w - pos
      x.putBits w f.d.toNat (rawA f x % 2 ^ pos + x.rawAt w f.b.toNat % 2 ^ n * 2 ^ pos + rawA f x / 2 ^ (pos + n) * 2 ^ (pos + n))) ∧
    exec (.cmp c f) s = .next (s.ran e c fun x => x.setPred f.d.toNat (cmpCond (f.md.toNat % 8) (opA f x) (opB e f x))) ∧
    exec (.sel c f) s = .next (s.ran e c fun x => putInt f false (if x.getPred f.c.toNat then opA f x else opB e f x) x) ∧
    exec (.mov c f) s = .next (s.ran e c fun x =>
      if f.ty = 11 then x.setQuad f.d.toNat (x.quad f.a.toNat) else x.putBits (intW f.ty) f.d.toNat (rawA f x)) ∧
    exec (.lea c f) s = .next (s.ran e c fun x =>
      x.setPair f.d.toNat (BitVec.ofNat 64 ((x.pair f.a.toNat).toNat + rawB e f x * 2 ^ (f.md.toNat % 8)))) ∧
    ∀ g : RI, exec (.movi c g) s = .next (s.ran e c fun x => x.putBits (intW g.ty) g.d.toNat (moviValue e.cu.ext g)))

/-- R364, R374, R372, R369, R373, R368, R370 under the float mould (R338): sums, differences, products, fused products, and the approximations.

R371, R366, R365, R358, R359, R134, R135: selections, comparison, classes and conversions. -/
def Obligations.FloatWords : Prop :=
  (∀ (s : State) (c : Ctl) (f : RRR) (e : Env) (t : Thread), s.runs c e t →
    exec (.fadd c f) s = .next (s.ran e c fun x => putFloat f ((fval f.ty x f.a).add (fRnd f) (fval f.ty x f.b)) x) ∧
    exec (.fsub c f) s = .next (s.ran e c fun x => putFloat f ((fval f.ty x f.a).add (fRnd f) (fval f.ty x f.b).neg) x) ∧
    exec (.fmul c f) s = .next (s.ran e c fun x => putFloat f ((fval f.ty x f.a).mul (fval f.ty x f.b)) x) ∧
    exec (.ffma c f) s = .next (s.ran e c fun x => putFloat f ((fval f.ty x f.a).fma (fRnd f) (fval f.ty x f.b) (fval f.ty x f.c)) x) ∧
    exec (.frcp c f) s = .next (s.ran e c fun x => putApprox f ((FVal.fin false 1 0).div (fval f.ty x f.a)) x) ∧
    exec (.frsq c f) s = .next (s.ran e c fun x => putApprox f (fval f.ty x f.a).rsqrt x) ∧
    exec (.fexp2 c f) s = .next (s.ran e c fun x => putApprox f (fval f.ty x f.a).exp2 x) ∧
    exec (.flog2 c f) s = .next (s.ran e c fun x => putApprox f (fval f.ty x f.a).log2 x)) ∧
  (∀ (s : State) (c : Ctl) (f : RRR) (e : Env) (t : Thread), s.runs c e t →
    exec (.fmin c f) s = .next (s.ran e c fun x =>
      x.setReg f.d.toNat (BitVec.ofNat 32 (pickFloat (fmtOfTy f.ty) false (fbits f.ty x f.a) (fbits f.ty x f.b)))) ∧
    exec (.fmax c f) s = .next (s.ran e c fun x =>
      x.setReg f.d.toNat (BitVec.ofNat 32 (pickFloat (fmtOfTy f.ty) true (fbits f.ty x f.a) (fbits f.ty x f.b)))) ∧
    exec (.fcmp c f) s = .next (s.ran e c fun x => x.setPred f.d.toNat (fcmpCond (f.md.toNat % 8) (fval f.ty x f.a) (fval f.ty x f.b))) ∧
    exec (.fclass c f) s = .next (s.ran e c fun x => x.setReg f.d.toNat (BitVec.ofNat 32 (classMask (fmtOfTy f.ty) (fbits f.ty x f.a)))) ∧
    exec (.cvt c f) s = .next (s.ran e c fun x =>
      let r := convert f.ty (cvtSource f) (fRnd f) (fSat f) (cvtRaw (cvtSource f) f.a x)
      let y := if tyBits f.ty = 64 then x.setPair f.d.toNat (BitVec.ofInt 64 r.1) else x.setReg f.d.toNat (BitVec.ofInt 32 r.1)
      r.2.elim y fun flag => y.setPred f.b.toNat flag) ∧
    exec (.cvtPk c f) s = .next (s.ran e c fun x =>
      x.setReg f.d.toNat (BitVec.ofNat 32 (encodeFormat (e.blk.slot (f.md.toNat % 8)) (f32 (x.reg f.a.toNat))))) ∧
    exec (.cvtUp c f) s = .next (s.ran e c fun x =>
      x.setReg f.d.toNat (f32Round false (decodeFormat (e.blk.slot (f.md.toNat % 8)) (x.reg f.a.toNat).toNat))))

/-- R392, R41, R394, R397, R433, R429: MVS, and the words that only leave a mark. -/
def Obligations.MarksAndSpecialRegisters : Prop :=
  ∀ (s : State) (c : Ctl) (e : Env) (t : Thread), s.runs c e t →
    (∀ f, exec (.mvs c f) s = .next (s.ran e c fun x =>
      if f.sel = 7 then x.setPair f.d.toNat e.cyc else x.setReg f.d.toNat (specialReg e x f.sel.toNat))) ∧
    (∀ f, exec (.nop c f) s = .next (s.ran e c fun x => x)) ∧
    (∀ f, exec (.pfx c f) s = .next (s.ran e c fun x => x)) ∧
    (∀ f, exec (.yield c f) s = .next (s.ran e c fun x => { x with yield := true })) ∧
    ∀ f, exec (.waitb c f) s = .next (s.ran e c fun x => { x with waitB := some (x.waitB.elim f.mode.toNat fun n => min n f.mode.toNat) })

/-- R70, R71, R78: where the guard is false a word does nothing but for its park marker, and one of the eleven words of R71 sends its member on to
the next clause. -/
def Obligations.FalseGuardDoesNothing : Prop :=
  ∀ (s : State) (i : Instr) (c : Ctl) (e : Env) (t : Thread), i.wf = true → ctlOfWord i = some c → s.member = some (e, t) → t.guard c = false →
    exec i s = .next (s.after e c fun m => if isLastOnly i then e.mod m fun x => x.leave (nextClause e.cu.addr e.cu.hdr) else m)

/-- R28, R29, R74: what the words that change registers only leave unchanged: of the member's thread everything but the registers and predicates they
name, its pending writes and marks; and the whole machine beside that thread, memory included. -/
def Obligations.RegisterWordsFrame : Prop :=
  ∀ (s u : State) (i : Instr) (e : Env) (t : Thread), changesRegistersOnly i = true → i.wf = true → s.member = some (e, t) → exec i s = .next u →
    onlyThread s u e.cu.core e.cu.blk e.cu.slot ∧
      ∃ t' : Thread, u.m.thread e.cu.core e.cu.blk e.cu.slot = some t' ∧
        (∀ j, j ∉ wordWrites i → t'.reg j = t.reg j) ∧ (∀ k, 64 + k ∉ wordWrites i → t'.getPred k = t.getPred k) ∧
        t'.pend.map (fun p => (p.id, p.dst, p.val)) = t.pend.map (fun p => (p.id, p.dst, p.val)) ∧
        t' = { t with regs := t'.regs, pred := t'.pred, pend := t'.pend, yield := t'.yield, waitB := t'.waitB, parkMark := t'.parkMark }

/-- R343, R421, R391: without .sat and with register operands, ADD, SUB and MUL over 32 bits are those of two's complement words, for the signed and
unsigned type alike.

R337, R343: under .sat the sum of two .i32 sources is the exact one clamped to the signed 32-bit range.

R408: shifts by a register over 32 bits: by 32 and more SHL and SHR give 0 and SAR copies of bit 31, below that the shifted value.

R128, R338: an operand of FADD, FSUB or FMUL that is a NaN gives the canonical NaN of the type, whatever the rounding and .sat. -/
def Obligations.ArithmeticByTheRules : Prop :=
  (∀ (s : State) (c : Ctl) (f : RRR) (e : Env) (t : Thread), s.runs c e t → (f.ty = 2 ∨ f.ty = 6) → f.md = 0 →
    (∃ (u : State) (t' : Thread), exec (.add c f) s = .next u ∧ u.m.thread e.cu.core e.cu.blk e.cu.slot = some t' ∧ t'.reg f.d.toNat = t.reg f.a.toNat + t.reg f.b.toNat) ∧
    (∃ (u : State) (t' : Thread), exec (.sub c f) s = .next u ∧ u.m.thread e.cu.core e.cu.blk e.cu.slot = some t' ∧ t'.reg f.d.toNat = t.reg f.a.toNat - t.reg f.b.toNat) ∧
    ∃ (u : State) (t' : Thread), exec (.mul c f) s = .next u ∧ u.m.thread e.cu.core e.cu.blk e.cu.slot = some t' ∧ t'.reg f.d.toNat = t.reg f.a.toNat * t.reg f.b.toNat) ∧
  (∀ (s : State) (c : Ctl) (f : RRR) (e : Env) (t : Thread), s.runs c e t → f.ty = 6 → f.md = 1 →
    ∃ (u : State) (t' : Thread), exec (.add c f) s = .next u ∧ u.m.thread e.cu.core e.cu.blk e.cu.slot = some t' ∧
      (t'.reg f.d.toNat).toInt = max (-2147483648) (min 2147483647 ((t.reg f.a.toNat).toInt + (t.reg f.b.toNat).toInt))) ∧
  (∀ (s : State) (c : Ctl) (f : RRR) (e : Env) (t : Thread), s.runs c e t → (f.ty = 2 ∨ f.ty = 6) → f.md = 0 →
    (∃ (u : State) (t' : Thread), exec (.shl c f) s = .next u ∧ u.m.thread e.cu.core e.cu.blk e.cu.slot = some t' ∧
      t'.reg f.d.toNat = t.reg f.a.toNat <<< (t.reg f.b.toNat).toNat) ∧
    (∃ (u : State) (t' : Thread), exec (.shr c f) s = .next u ∧ u.m.thread e.cu.core e.cu.blk e.cu.slot = some t' ∧
      t'.reg f.d.toNat = t.reg f.a.toNat >>> (t.reg f.b.toNat).toNat) ∧
    ∃ (u : State) (t' : Thread), exec (.sar c f) s = .next u ∧ u.m.thread e.cu.core e.cu.blk e.cu.slot = some t' ∧
      t'.reg f.d.toNat = (t.reg f.a.toNat).sshiftRight (t.reg f.b.toNat).toNat) ∧
  (∀ (s : State) (c : Ctl) (f : RRR) (e : Env) (t : Thread), s.runs c e t → (f.ty = 8 ∨ f.ty = 10) →
    (fval f.ty t f.a = .nan ∨ fval f.ty t f.b = .nan) →
    ∀ i ∈ [Instr.fadd c f, .fsub c f, .fmul c f],
      ∃ (u : State) (t' : Thread), exec i s = .next u ∧ u.m.thread e.cu.core e.cu.blk e.cu.slot = some t' ∧ t'.reg f.d.toNat = if f.ty = 10 then 0x7FC00000 else 0x7E00)

/-- R9, R29, R69, R103: a pair and a quad hold their value from the low register up; K is bit 63, OPC bits [62:56] and GUARD bits [55:52] of a word, which executes where the named predicate,
inverted by bit 55, is true; p7 reads as true, also in the image, a write to it is discarded, 0b0111 always executes and 0b1111 never. -/
def Obligations.RegistersAndGuards : Prop :=
  (∀ (t : Thread) (i : Nat), (t.pair i).extractLsb' 0 32 = t.reg i ∧ (t.pair i).extractLsb' 32 32 = t.reg (i + 1) ∧
    ∀ j, j < 4 → (t.quad i).extractLsb' (32 * j) 32 = t.reg (i + j)) ∧
    (∀ (t : Thread) (i : Nat) (v : DWord) (q : BitVec 128), (t.setPair i v).pair i = v ∧ (t.setQuad i q).quad i = q ∧
      (∀ j, j ≠ i → j ≠ i + 1 → (t.setPair i v).reg j = t.reg j) ∧ ∀ j, (j < i ∨ i + 4 ≤ j) → (t.setQuad i q).reg j = t.reg j) ∧
    (∀ (t : Thread) (w : DWord), (ctlOf w).park = w.getLsbD 63 ∧ opcOf w = w.extractLsb' 56 7 ∧
      t.guard (ctlOf w) = (t.getPred (w.extractLsb' 52 3).toNat != w.getLsbD 55) ∧
      (w.extractLsb' 52 4 = 0b0111 → t.guard (ctlOf w) = true) ∧ (w.extractLsb' 52 4 = 0b1111 → t.guard (ctlOf w) = false)) ∧
    (∀ (t : Thread) (v : Bool) (slot : Nat), t.getPred 7 = true ∧ t.setPred 7 v = t ∧
      ((statusFields slot t).any fun f => f.1 == 0x1000 + 32 * slot + 8 && f.2.2.testBit 7) = true) ∧
    ∀ (s : State) (c : Ctl) (f : RRR) (e : Env) (t : Thread), s.runs c e t → f.d = 7 →
      exec (.cmp c f) s = .next (s.ran e c fun x => x) ∧ exec (.fcmp c f) s = .next (s.ran e c fun x => x)

/-- R77: writes of one thread to one register take effect in program order: of two pending writes the later one's value stays whichever returns first; a pending write that returns after a
later fixed-latency write is discarded; either way the register is pending no longer. -/
def Obligations.RegisterWritesKeepTheirOrder : Prop :=
  ∀ (t : Thread) (i : Nat) (p q : Pending) (v w x : Word), p.id < q.id → p.dst = [i] → q.dst = [i] → p.dead = [] → q.dead = [] → p.val = some [v] → q.val = some [w] →
    (t.pend = [p, q] →
      ((t.arriveId p.id).arriveId q.id).reg i = w ∧ ((t.arriveId q.id).arriveId p.id).reg i = w ∧
      ((t.arriveId p.id).arriveId q.id).isPending i = false ∧ ((t.arriveId q.id).arriveId p.id).isPending i = false) ∧
    (t.pend = [p] → ((t.setReg i x).arriveId p.id).reg i = x ∧ ((t.setReg i x).arriveId p.id).isPending i = false ∧ (t.setReg i x).isPending i = true)

/-- R21, R166: the home die of a local offset, its stack and its home slice, numbered over the device, on either part; one stack for each aligned 4 KiB, one slice for each aligned 512 bytes. -/
def Obligations.HomesOfAddresses : Prop :=
  ∀ (m : Dev) (ft : Features) (o : Nat), m.mgmt.podDev < 4096 → o < 4 * ft.dieSpan →
    let loc := m.mgmt.podDev * 2 ^ 40 + o
    let die := o / ft.dieSpan
    let d := o % ft.dieSpan
    let slice (o : Nat) : Nat := 32 * m.dieOfLoc ft (m.mgmt.podDev * 2 ^ 40 + o) + m.sliceOfLoc ft (m.mgmt.podDev * 2 ^ 40 + o)
    ft.dieSpan = (if ft.part = .g4x then 192 * 2 ^ 30 else 128 * 2 ^ 30) ∧ m.dieOfLoc ft loc = die ∧
    stackOf ft o = (if ft.part = .g4x then 3 * die + d / 4096 % 3 else 2 * die + d / 4096 % 2) ∧
    slice o = 32 * die + (d / 2 ^ 9 % 32 ^^^ d / 2 ^ 14 % 32 ^^^ d / 2 ^ 19 % 32) ∧
    (∀ o', o' / 4096 = o / 4096 → stackOf ft o' = stackOf ft o) ∧ ∀ o', o' / 512 = o / 512 → slice o' = slice o

/-- R4: on a device that answers, a write before the lock stores the written ACC bits that the part supports, as often as it is made, and one with LOCK 1
locks the register with that value; after the lock a write changes nothing; a device reset clears LOCK and ACC. -/
def Obligations.FeatureAcceptance : Prop :=
  ∀ (s : State) (v : DWord), s.answers →
    (s.feat.lock = false → ∃ (u : State), exec (.devFeatAccWrite v) s = .next u ∧ u.feat.part = s.feat.part ∧
      u.feat.acc = v.extractLsb' 0 6 &&& s.feat.sup ∧ u.feat.lock = v.getLsbD 63 ∧ (v.getLsbD 63 = false → u.m = s.m)) ∧
    (s.feat.lock = false → ∃ (u : State), exec (.featLock v) s = .next u ∧ u.feat = { s.feat with acc := v.extractLsb' 0 6 &&& s.feat.sup, lock := true }) ∧
    (s.feat.lock = true → exec (.devFeatAccWrite v) s = .next s ∧ exec (.featLock v) s = .next s) ∧
    ∃ (u : State), exec .deviceReset s = .next u ∧ u.feat = { s.feat with acc := 0, lock := false }

/-- R5: before the lock the writes of CTX_CREATE, CTX_DESTROY, GRAPH_DB and EV_HOST are held in one order and do nothing else; the write that locks services
them in that order, all of them where none has to wait for agents outside the device (R288, R322).

R335: a device in recovery answers no host operation. -/
def Obligations.RequestsBeforeTheLockAndInRecovery : Prop :=
  (∀ (s : State) (v : DWord), s.answers → s.feat.lock = false →
    (∀ p ∈ [(Instr.ctxCreate v, HeldWrite.ctxCreate v), (.ctxDestroy v, .ctxDestroy v), (.graphDb v, .graphDb v), (.evHostSet v, .evHost (v ||| 0x100)),
        (.evHostClear v, .evHost (v &&& ~~~0x100))], exec p.1 s = .next (s.withDev { s.m with heldWrites := s.m.heldWrites ++ [(p.2, s.m.nextId)] })) ∧
    ∃ (u : State), exec (.featLock v) s = .next u ∧ u.feat.lock = true ∧ u.m = Dev.serviceQueue u.feat s.m s.m.heldWrites ∧
      let after (k : Nat) : Dev := (s.m.heldWrites.take k).foldl (fun m q => m.service u.feat q.1) s.m
      ((∀ k p, s.m.heldWrites[k]? = some p → (after k).eventWaits p.1 p.2 = false ∧ (after k).recordsWait ((after k).serviceRuns u.feat p.1) = false) →
        u.m = { after s.m.heldWrites.length with heldWrites := [] })) ∧
  (∀ (s : State) (v : DWord) (n : Nat) (g : ImageCheck) (r : AgentRequest), s.m.mgmt.boot = .recovery →
    ∀ i ∈ [Instr.devFeatAccWrite v, .featLock v, .ctxCreate v, .ctxDestroy v, .ctxResRead, .graphDb v, .evHostSet v, .evHostClear v, .ctxDroppedRead,
        .ctxStateRead, .registerWrite n v, .dirCtlWrite n v, .heatCtlWrite n v, .hclr n, .heatRead n n, .aliasInfoRead n, .fqHeadWrite v, .fqReplay v,
        .fqReplayAll v, .fqReplayFail v, .ctxSuspend, .ctxResume, .ctxWb, .wpLostRead, .cutReq v, .cutRel v, .lmemBoundWrite v, .shootdownRange v,
        .shootdownAll v, .sdStatOvfClear, .wpCtlWrite n v, .keyLoad v, .keyErase v, .strandWb v, .strandDisc v, .fwUpdateGo v g, .hostMemRequest r, .podRequest n r, .hostSnoopResponse n],
      exec i s = .next s)

/-- R165, R280, R281: a creation request after the lock, behind no write that waits, with a descriptor that can be reached, and records of which no agent outside owns or
may hold a line and no stash moves a word (R152, R322), reports the lowest condition that the descriptor breaks; with none broken the context
exists, its fault queue empty at phase 1; it runs its head, or is idle where it has none; its status area's first part reads zero (which bytes, and that they do as the context is created, is the
model's reading, log entry 69). Where the status area cannot be reached the new context halts with the fault of that access (the model's choice, log entry 85). -/
def Obligations.ContextCreation : Prop :=
  ∀ (s : State) (v : DWord), s.answers → s.feat.lock = true →
    let d (i : Nat) : Nat := if i < 8 then s.m.getRecord (bitsOf v.toNat 6 46 * 64 + 8 * i) 8 else 0
    let a := d 0 % 8192
    let code := descriptorCode d (s.m.ctx a).isSome
    let stat := d 3 % 2 ^ 52
    s.m.recordCause s.feat (bitsOf v.toNat 6 46 * 64) = none → s.m.heldWrites = [] → s.m.recordsWait (s.m.serviceRuns s.feat (.ctxCreate v)) = false →
    ∃ (u : State), exec (.ctxCreate v) s = .next u ∧
      u.m.mgmt = { s.m.mgmt with ctxResValid := true, ctxResCode := code, ctxResAsid := a } ∧
      (code ≠ 0 → u.m.ctxs = s.m.ctxs ∧ u.m.mem = s.m.mem) ∧
      (∀ x, code = 0 → s.m.recordCause s.feat stat = some x → ∃ c f, u.hasCtx a c ∧ c.halt.isSome ∧ c.waiting = [f] ∧ f.cause = x ∧ f.nr = true ∧ f.pa = stat ∧ u.m.mem = s.m.mem) ∧
      (code = 0 → s.m.recordCause s.feat stat = none → s.m.recordFree stat 0x8100 = true → ∃ c, u.m.ctx a = some c ∧ c.asid = a ∧
        c.st = (if d 4 % 2 ^ 57 = 0 then .idle else .running) ∧ c.fqHead = 0x100 ∧ c.fqTail = 0x100 ∧ c.halt = none ∧ c.events = 0 ∧
        c.pool = d 1 % 2 ^ 52 ∧ c.imgn = d 2 % 65536 ∧ c.stat = stat ∧
        (d 4 % 2 ^ 57 ≠ 0 → c.main.cur = some (BitVec.ofNat 64 (d 4 % 2 ^ 57))) ∧
        (∀ b, b ≠ a → u.m.ctx b = s.m.ctx b) ∧
        ∀ x, Memory.byte u.m.mem x = if c.stat ≤ x ∧ x < c.stat + 0x8100 then 0 else Memory.byte s.m.mem x)

/-- R283: CTX_DESTROY discards the chains of a context and halts it where it has not halted; where its halt is complete it keeps that halt, and the destruction goes on at once; its blocks and
entries gone, its number is free. A doorbell queues a head, which an idle context takes up at once; the 65th is discarded and sets DBOVF. All this where no earlier write waits. -/
def Obligations.ContextsEndAndDoorbellsQueue : Prop :=
  (∀ (s : State) (v : DWord) (c : Context), s.answers → s.feat.lock = true → s.m.heldWrites = [] → s.hasCtx (bitsOf v.toNat 0 13) c → c.st ≠ .destroying →
    (c.halt.any fun h => h.done) = false →
    ∃ (u : State) (c' : Context), exec (.ctxDestroy v) s = .next u ∧ u.hasCtx (bitsOf v.toNat 0 13) c' ∧ c'.st = .destroying ∧ c'.heads = [] ∧ c'.devQ = [] ∧
      c'.main.cur = none ∧ c'.dev.cur = none ∧ c'.halt.isSome ∧ (c.halt.isSome → c'.halt = c.halt) ∧
      u.m.launches = s.m.launches.filter (fun l => l.asid != bitsOf v.toNat 0 13)) ∧
    (∀ (s : State) (v : DWord) (c : Context) (h : Halt), s.answers → s.feat.lock = true → s.m.heldWrites = [] → s.hasCtx (bitsOf v.toNat 0 13) c → c.st ≠ .destroying → c.halt = some h → h.done = true →
      s.m.blocksOf (bitsOf v.toNat 0 13) = [] → (∀ p ∈ s.m.cores, p.2.skeins = []) →
      ∃ (u : State) (c' : Context), exec (.ctxDestroy v) s = .next u ∧ u.hasCtx (bitsOf v.toNat 0 13) c' ∧ c' = { c with st := .destroying, main := Fresh.chain, dev := Fresh.chain, heads := [], devQ := [] } ∧
        u.m.launches = s.m.launches.filter (fun l => l.asid != bitsOf v.toNat 0 13) ∧
        ∃ w, exec (.ctxDestroyComplete (bitsOf v.toNat 0 13)) u = .next w ∧ w.m.ctx (bitsOf v.toNat 0 13) = none) ∧
    (∀ (s : State) (asid : Nat) (c : Context), s.hasCtx asid c → c.st = .destroying → (c.halt.any fun h => h.done) = true →
      (∀ p ∈ s.m.cores, (∀ b ∈ p.2.blocks, b.asid ≠ asid) ∧ ∀ q ∈ p.2.skeins, ∀ k, q.2 = some k → k.asid ≠ asid) →
      ∃ (u : State), exec (.ctxDestroyComplete asid) s = .next u ∧ u.m.ctx asid = none ∧ ∀ b, b ≠ asid → u.m.ctx b = s.m.ctx b) ∧
    ∀ (s : State) (v : DWord) (c : Context), s.answers → s.feat.lock = true → s.m.heldWrites = [] → s.hasCtx (bitsOf v.toNat 51 13) c →
      (c.st = .idle → c.heads = [] → c.halt = none → c.main.cur = none → ∃ (u : State), exec (.graphDb v) s = .next u ∧
        u.hasCtx (bitsOf v.toNat 51 13) { c with st := .running, main := chainAt (BitVec.ofNat 64 (bitsOf v.toNat 0 50 * 128)) }) ∧
      (64 ≤ c.heads.length → ∃ (u : State), exec (.graphDb v) s = .next u ∧ u.hasCtx (bitsOf v.toNat 51 13) { c with dbovf := true }) ∧
      (c.heads.length < 64 → c.main.cur.isSome → ∃ (u : State), exec (.graphDb v) s = .next u ∧
        u.hasCtx (bitsOf v.toNat 51 13) { c with heads := c.heads ++ [BitVec.ofNat 64 (bitsOf v.toNat 0 50 * 128)] })

/-- R281, R288: EV_HOST sets or clears one event of its context, and only that one; the walker then tests its chains, and starts a node that this makes ready. A release at
system scope, it is held while a request of the host that came before it still waits at its home slice.

R10, R188, R281, R318: a read of a register that clears on reading answers its value, and it reads 0 from then on; ALIAS_PA and HEAT's other entries
keep theirs. -/
def Obligations.HostEventsAndClearingReads : Prop :=
  (∀ (s : State) (v : DWord) (c : Context), s.answers → s.feat.lock = true → s.m.heldWrites = [] → s.hasCtx (bitsOf v.toNat 51 13) c →
    let a := bitsOf v.toNat 51 13
    ((∃ x ∈ s.m.home.outside, x.id < s.m.nextId ∧ ∃ p, x.agent = .host p) →
      exec (.evHostSet v) s = .next (s.withDev { s.m with heldWrites := [(.evHost (v ||| 0x100), s.m.nextId)] })) ∧
    ((∀ x ∈ s.m.home.outside, ∀ p, x.agent ≠ .host p) →
    let tested (y : Context) : Context := if s.m.walks a then y.testChains else y
    (∃ (u : State) (ev : BitVec 256), exec (.evHostSet v) s = .next u ∧ u.hasCtx a (tested { c with events := ev }) ∧ (c.still → u.hasCtx a { c with events := ev }) ∧
      ∀ n, ev.getLsbD n = (c.events.getLsbD n || decide (n = bitsOf v.toNat 0 8))) ∧
    ∃ (u : State) (ev : BitVec 256), exec (.evHostClear v) s = .next u ∧ u.hasCtx a (tested { c with events := ev }) ∧ (c.still → u.hasCtx a { c with events := ev }) ∧
      ∀ n, ev.getLsbD n = (c.events.getLsbD n && decide (n ≠ bitsOf v.toNat 0 8)))) ∧
  (∀ (s : State), s.answers →
    exec .ctxResRead s = .next (s.withDev { s.m with mgmt := { s.m.mgmt with
      readBack := BitVec.ofNat 64 (2 ^ 63 * bit s.m.mgmt.ctxResValid + 2 ^ 56 * s.m.mgmt.ctxResCode + s.m.mgmt.ctxResAsid)
      ctxResValid := false, ctxResCode := 0, ctxResAsid := 0 } }) ∧
    (∀ c, s.hasCtx s.m.mgmt.ctxSel c →
      (∃ (u : State), exec .ctxDroppedRead s = .next u ∧ u.m.mgmt.readBack = BitVec.ofNat 64 c.dropped ∧ u.hasCtx s.m.mgmt.ctxSel { c with dropped := 0 }) ∧
      (∃ (u : State), exec .wpLostRead s = .next u ∧ u.m.mgmt.readBack = BitVec.ofNat 64 c.wpLost ∧ u.hasCtx s.m.mgmt.ctxSel { c with wpLost := 0 }) ∧
      ∃ (u : State), exec .ctxStateRead s = .next u ∧ u.m.mgmt.readBack = BitVec.ofNat 64 (16 * bit c.dbovf + c.st.code) ∧
        u.hasCtx s.m.mgmt.ctxSel { c with dbovf := false }) ∧
    (∀ d i, d < 4 → i < 65536 → ∃ (u : State), exec (.heatRead d i) s = .next u ∧ u.m.mgmt.readBack = BitVec.ofNat 64 (mget 0 (s.m.die d).heat i) ∧
      mget 0 (u.m.die d).heat i = 0 ∧ ∀ j, j ≠ i → mget 0 (u.m.die d).heat j = mget 0 (s.m.die d).heat j) ∧
    ∀ d, d < 4 → ∃ (u : State), exec (.aliasInfoRead d) s = .next u ∧
      u.m.mgmt.readBack = BitVec.ofNat 64 (2 ^ 63 * bit (s.m.die d).aliasValid + 2 ^ 32 * (s.m.die d).aliasLost + 2 ^ 6 * (s.m.die d).aliasAsid +
        4 * (s.m.die d).aliasOld + (s.m.die d).aliasNew) ∧
      u.m.die d = { s.m.die d with aliasValid := false, aliasLost := 0, aliasAsid := 0, aliasOld := 0, aliasNew := 0 })

/-- R186 to R188, R301, R307: the registers of a die's memory-control block, HEAT_CTL's clear, and LMEM_BOUND, with the values that they store instead of
ones out of range (what HCLR leaves of HEAT_CTL, and where a miss sequence starts again, is the model's reading, log entry 68).

R281, R301, R316, R332: plain registers hold the fields written to them; WP_CTL stores a size above 9 as 9. -/
def Obligations.HostRegistersHold : Prop :=
  (∀ (s : State) (v : DWord), s.answers →
    (∀ d, d < 4 →
      (∃ (u : State), exec (.dirCtlWrite d v) s = .next u ∧ u.m.die d = { s.m.die d with aliasf := v.getLsbD 16, refmax := (u.m.die d).refmax } ∧
        (u.m.die d).refmax = if v.toNat % 2048 < 8 then 8 else if 1024 < v.toNat % 2048 then 1024 else v.toNat % 2048) ∧
      (∃ (u : State), exec (.heatCtlWrite d v) s = .next u ∧ (u.m.die d).on = v.getLsbD 5 ∧ (u.m.die d).kexp = (if 16 < v.toNat % 32 then 16 else v.toNat % 32) ∧
        (u.m.die d).hclr = ((s.m.die d).hclr || v.getLsbD 8) ∧ (u.m.die d).missSeq = [] ∧ (u.m.die d).heat = (s.m.die d).heat) ∧
      (∃ (u : State), exec (.hclr d) s = .next u ∧ u.m.die d = { s.m.die d with hclr := true, missSeq := [] }) ∧
      ((s.m.die d).hclr = true → ∃ (u : State), exec (.heatClearDone d) s = .next u ∧ u.m.die d = { s.m.die d with hclr := false, heat := [], heatNew := [] })) ∧
    ∃ (u : State), exec (.lmemBoundWrite v) s = .next u ∧ u.m.mgmt = { s.m.mgmt with lmem := if v.toNat % 65536 < 1000 then 1000 else v.toNat % 65536 }) ∧
  (∀ (s : State) (v : DWord), s.answers →
    exec (.registerWrite 0x228 v) s = .next (s.withDev { s.m with mgmt := { s.m.mgmt with ctxSel := v.toNat % 8192 } }) ∧
    exec (.registerWrite 0x280 v) s = .next (s.withDev { s.m with mgmt := { s.m.mgmt with ttBase := BitVec.ofNat 64 (v.toNat / 2 ^ 16 % 2 ^ 36 * 2 ^ 16) } }) ∧
    exec (.registerWrite 0x288 v) s = .next (s.withDev { s.m with mgmt := { s.m.mgmt with sdVa := BitVec.ofNat 64 (v.toNat / 2 ^ 12 % 2 ^ 45 * 4096) } }) ∧
    exec (.registerWrite 0x418 v) s = .next (s.withDev { s.m with mgmt := { s.m.mgmt with intVec := v &&& 0x0FFF0FFF0FFF0FFF } }) ∧
    (∀ off, off ∈ [0x40, 0x210, 0x230, 0x238, 0x248, 0x270, 0x400, 0x408, 0x500] → exec (.registerWrite off v) s = .next s) ∧
    ∀ c, s.hasCtx s.m.mgmt.ctxSel c → ∀ n, n < 16 →
      (∃ (u : State) (c' : Context), exec (.wpCtlWrite n v) s = .next u ∧ u.hasCtx s.m.mgmt.ctxSel c' ∧ mget Fresh.wp c'.wps n =
        { mget Fresh.wp c.wps n with en := v.getLsbD 63, halt := v.getLsbD 62, sz := if 9 < v.toNat % 16 then 9 else v.toNat % 16 }) ∧
      ∃ (u : State) (c' : Context), exec (.registerWrite (0x2A0 + 16 * n) v) s = .next u ∧ u.hasCtx s.m.mgmt.ctxSel c' ∧
        mget Fresh.wp c'.wps n = { mget Fresh.wp c.wps n with pa := BitVec.ofNat 64 (v.toNat / 8 % 2 ^ 49 * 8) })

/-- R309, R311: CUT_CTL's REQ starts a cut of the selected context unless one runs; REL releases every held thread and returns STATE to 0; past its limit a
running cut aborts and releases every held thread.

R310, R311: with every participant held, the largest step, with POD of the pod's other devices too, becomes the target, which agrees where it was the target before, and of the held participants only those below it go
on (M keeps its value from REQ until a cut completes, and the pod's agreement is a second reduction that finds the target again: the model's readings, log entries 34 and 61); with every participant held at the target, the engines quiet, the group in agreement and the limit not passed the cut is complete and M holds the target. -/
def Obligations.Cuts : Prop :=
  (∀ (s : State) (v : DWord) (c : Context),
    (s.answers → s.hasCtx s.m.mgmt.ctxSel c →
      (c.cut.st ≠ .running → ∃ (u : State), exec (.cutReq v) s = .next u ∧ u.hasCtx s.m.mgmt.ctxSel
        { c with cut := { c.cut with st := .running, target := 0, elapsed := 0, agreed := false, limit := v.toNat / 2 ^ 32 % 2 ^ 32, pod := v.getLsbD 2 } }) ∧
      ∃ (u : State), exec (.cutRel v) s = .next u ∧ (∃ c', u.hasCtx s.m.mgmt.ctxSel c' ∧ c'.cut.st = .idle ∧ c' = { c with cut := c'.cut }) ∧
        ∀ p ∈ u.m.blocksOf s.m.mgmt.ctxSel, ∀ t ∈ p.2.threads, t.2.cutHeld = false) ∧
    ∀ asid, s.hasCtx asid c → c.cut.st = .running → c.cut.limit ≠ 0 → 1024 * c.cut.limit ≤ c.cut.elapsed →
      ∃ (u : State), exec (.cutAbort asid) s = .next u ∧ u.hasCtx asid { c with cut := { c.cut with st := .aborted } } ∧
        ∀ p ∈ u.m.blocksOf asid, ∀ t ∈ p.2.threads, t.2.cutHeld = false) ∧
  (∀ (s : State) (asid : Nat) (c : Context), s.hasCtx asid c → c.cut.st = .running → (∀ t ∈ s.m.participants asid, t.atCut = true) →
    (∀ pod, (c.cut.pod = true → pod.isSome = true) → ∃ (u : State), ∃ n, exec (.cutReduce asid pod) s = .next u ∧
      u.hasCtx asid { c with cut := { c.cut with target := BitVec.ofNat 32 n, agreed := c.cut.target == BitVec.ofNat 32 n } } ∧
      (∀ t ∈ s.m.participants asid, t.step.toNat ≤ n) ∧
      (∀ core blk slot b, s.m.block core blk = some b → b.asid = asid → u.m.thread core blk slot =
        some (if (b.thread slot).cutHeld = true ∧ (b.thread slot).step.toNat < n then { b.thread slot with cutHeld := false } else b.thread slot)) ∧
      (c.cut.pod = false → s.m.participants asid ≠ [] → ∃ t ∈ s.m.participants asid, t.step.toNat = n) ∧
      ∀ k, c.cut.pod = true → pod = some k → k ≤ n ∧ (n = k ∨ ∃ t ∈ s.m.participants asid, t.step.toNat = n)) ∧
    ((∀ t ∈ s.m.participants asid, t.step = c.cut.target) → (∀ p ∈ s.m.blocksOf asid, (s.m.core p.1).enginesQuiet p.2 = true) → (c.cut.pod = true → c.cut.agreed = true) →
      (c.cut.limit ≠ 0 → c.cut.elapsed < 1024 * c.cut.limit) →
      ∃ (u : State), exec (.cutComplete asid) s = .next u ∧ u.hasCtx asid { c with cut := { c.cut with st := .complete, m := c.cut.target } }))

/-- R300, R302: the next entry is written in the tail's slot with the tail's phase where the queue is not full, the tail advances past it, the operation it
suspends carries a tag that is not 0 and that no other carries (which one is the model's choice, log entry 96), and the interrupt is raised; FQ_HEAD moves the head.

R288, R302: FQ_REPLAY names the suspended operation that carries its tag, and with ALL every one: what it names is suspended no longer, other operations
stay as they are, a tag that names nothing is ignored, and the walker tests its chains; with FAIL the access named is not performed and its context halts with "protection"; a tag of an
operation that is gone does nothing more. Of FAIL's entry the fields, and which operations ALL names, are the model's reading (log entry 50). -/
def Obligations.FaultQueueAndReplay : Prop :=
  ((∀ (s : State) (asid tag : Nat) (c : Context) (f : FaultInfo) (rest : List FaultInfo), s.hasCtx asid c → c.waiting = f :: rest →
    s.m.records s.feat (c.stat + 0xC000 + 64 * (c.fqTail.toNat % 256)) → (f.susp = none ∧ tag = 0) ∨ (f.susp.isSome = true ∧ c.freeTag = some tag) → (c.fqTail - c.fqHead).toNat < 256 →
    ∃ (u : State), exec (.faultEntryWrite asid) s = .next u ∧
      u.hasCtx asid { c with
        waiting := rest, fqTail := c.fqTail + 1, nextTag := if tag = 0 then c.nextTag else tag % 65535 + 1
        tagged := if f.susp.isSome then c.tagged ++ [{ tag := tag, info := f }] else c.tagged } ∧
      u.m.mem = (s.m.putFields s.feat asid (c.stat + 0xC000 + 64 * (c.fqTail.toNat % 256)) (entryFields f tag (c.fqTail.toNat / 256))).mem ∧
      u.m.mgmt.msi = s.m.mgmt.msi ++ [(s.m.mgmt.intVec.toNat / 2 ^ 11 % 2, s.m.mgmt.intVec.toNat % 2 ^ 11)]) ∧
    (∀ (s : State) (asid : Nat) (c : Context), s.hasCtx asid c → 256 ≤ (c.fqTail - c.fqHead).toNat → exec (.faultEntryWrite asid) s = .next s) ∧
    (∀ (c : Context) (t : Nat), c.freeTag = some t → t ≠ 0 ∧ ∀ x ∈ c.tagged, x.tag ≠ t) ∧
    ∀ (s : State) (v : DWord) (c : Context), s.answers → s.hasCtx s.m.mgmt.ctxSel c →
      ∃ (u : State), exec (.fqHeadWrite v) s = .next u ∧ u.hasCtx s.m.mgmt.ctxSel { c with fqHead := v.extractLsb' 0 9 }) ∧
  (∀ (s : State) (v : DWord) (c : Context), s.answers → s.hasCtx s.m.mgmt.ctxSel c →
    let k := s.m.mgmt.ctxSel
    let tested (y : Context) : Context := if (s.m.modCtx k fun _ => y).walks k then y.testChains else y
    (c.still → ∀ y : Context, y.main = c.main → y.dev = c.dev → tested y = y) ∧
    (∃ (u : State), exec (.fqReplay v) s = .next u ∧ u.hasCtx k (tested { c with tagged := c.tagged.filter fun t => t.tag != v.toNat % 65536 }) ∧ u.m.mem = s.m.mem) ∧
    (∃ (u : State), exec (.fqReplayAll v) s = .next u ∧ u.hasCtx k (tested { c with tagged := [] }) ∧ u.m.mem = s.m.mem) ∧
    ∀ x core id, c.tagged = [x] → x.info.susp = some (.access core id) → x.tag = v.toNat % 65536 → v.getLsbD 16 = false →
      (((s.m.core core).access id).isSome = true →
        ∃ (u : State) (c' : Context), ∃ f, exec (.fqReplayFail v) s = .next u ∧ u.hasCtx k c' ∧ c'.tagged = [] ∧ c'.halt.isSome ∧ c'.waiting = c.waiting ++ [f] ∧
          f.cause = 0x10 ∧ f.nr = true ∧ f.va = x.info.va ∧ f.susp = none ∧ (u.m.core core).accs = (s.m.core core).accs.filter (fun a => a.id != id) ∧
          u.m.mem = s.m.mem) ∧
      ((s.m.core core).access id = none → ∃ (u : State), exec (.fqReplayFail v) s = .next u ∧ u.hasCtx k (tested { c with tagged := [] }) ∧ u.m.cores = s.m.cores))

/-- R288, R301, R308, R336: CTX_CTL's SUSP asks every block of the selected context to leave its core; its clearing takes that back, but on a die where an update has stopped placement, and the walker
tests its chains; WB is requested, and done once every pre-empted block's skid is over and its image has been written, where no agent outside holds lines
of the images (R322).

R315: SD_CTL queues a shootdown of NPG pages from SD_VA or of a whole address space; with 16 queued the request is discarded and sets OVF.

R315: the oldest shootdown is performed once nothing keeps it waiting: DONE counts it, and no core has a cached translation that it drops; one of no pages
only counts. -/
def Obligations.SuspensionAndShootdowns : Prop :=
  ((∀ (s : State) (c : Context), s.answers → s.hasCtx s.m.mgmt.ctxSel c →
    let k := s.m.mgmt.ctxSel
    let y := { c with susp := false }
    (∃ (u : State), exec .ctxSuspend s = .next u ∧ u.hasCtx k { c with susp := true } ∧ ∀ i, ∀ b ∈ (u.m.core i).blocks, b.asid = k → b.asked = true) ∧
    (∃ (u : State), exec .ctxResume s = .next u ∧ u.hasCtx k (if (s.m.modCtx k fun _ => y).walks k then y.testChains else y) ∧ (c.still → u.hasCtx k y) ∧
      ∀ i, (s.m.die (s.feat.dieOf i)).placing = true → ∀ b ∈ (u.m.core i).blocks, b.asid = k → b.asked = false) ∧
    ∃ (u : State), exec .ctxWb s = .next u ∧ u.hasCtx k { c with wb := true }) ∧
    ∀ (s : State) (asid : Nat) (c : Context), s.hasCtx asid c → c.wb = true → (∀ p ∈ s.m.blocksOf asid, p.2.bst = .preempted → p.2.skid = none) →
      s.m.recordsWait ((s.m.blocksOf asid).flatMap fun p => s.m.imageRun p.2) = false →
      ∃ (u : State) (c' : Context), exec (.ctxWbDone asid) s = .next u ∧ u.hasCtx asid c' ∧ c'.wb = false ∧ ∀ i, ∀ b ∈ (u.m.core i).blocks, b.asid = asid → b.bst = .preempted → b.imaged = true) ∧
  (∀ (s : State) (v : DWord), s.answers →
    (s.m.mgmt.sdQueue.length < 16 →
      exec (.shootdownRange v) s = .next (s.withDev { s.m with mgmt := { s.m.mgmt with sdQueue := s.m.mgmt.sdQueue ++
        [{ asid := v.toNat / 2 ^ 51 % 2 ^ 13, all := false, va := s.m.mgmt.sdVa.toNat, npg := v.toNat % 2 ^ 32 }] } }) ∧
      exec (.shootdownAll v) s = .next (s.withDev { s.m with mgmt := { s.m.mgmt with sdQueue := s.m.mgmt.sdQueue ++
        [{ asid := v.toNat / 2 ^ 51 % 2 ^ 13, all := true, va := 0, npg := 0 }] } })) ∧
    (16 ≤ s.m.mgmt.sdQueue.length → ∀ i ∈ [Instr.shootdownRange v, .shootdownAll v],
      exec i s = .next (s.withDev { s.m with mgmt := { s.m.mgmt with sdOvf := true } })) ∧
    exec .sdStatOvfClear s = .next (s.withDev { s.m with mgmt := { s.m.mgmt with sdOvf := false } })) ∧
  (∀ (s : State) (x : Shootdown) (q : List Shootdown), s.m.mgmt.sdQueue = x :: q →
    (x.all = false → x.npg = 0 → exec .shootdownPerform s =
      .next (s.withDev { s.m with mgmt := { s.m.mgmt with sdQueue := q, sdDone := s.m.mgmt.sdDone + 1 } })) ∧
    ((x.all = true ∨ x.npg ≠ 0) → (∀ p ∈ s.m.cores, s.m.shootWaits x p.1 = false) →
      ∃ (u : State), exec .shootdownPerform s = .next u ∧ u.m.mgmt.sdQueue = q ∧ u.m.mgmt.sdDone = s.m.mgmt.sdDone + 1 ∧
        ∀ p ∈ s.m.cores, ∀ e ∈ (u.m.core p.1).tlb, x.drops e = false))

/-- R195, R333: a key command starts where none is in progress; when it completes the key is installed or erased and KEY_DATA is zero; what an erased index held serves the lines still cached under it.

R334, R335: the strapped root checks the image of its flash and runs it under number 0, or reports CODE and stays in recovery; another device takes the lowest offering link that is up as its
parent, verifies the image, and runs it under the number it is given, the first of a block, or reports why it does not and asks again, up to three times, before recovery; a device that runs offers the image on its links. That a device's own
number is the first of its block and the root's block is all 4,096 numbers, and that a root with a bad flash goes to recovery at once, are the model's readings (log entry 66).

R336: GO with an image that verifies starts the update at die 0, one that does not only reports CODE, and one during an update is ignored; a die whose blocks have left
switches and sets its DONE bit, and after the last the update is complete. That FW_VER
changes only then is the model's reading (log entry 66); IMG of an ignored GO is its choice (log entry 121). -/
def Obligations.KeysBootAndUpdates : Prop :=
  (∀ (s : State) (v : DWord),
    (s.answers → s.m.mgmt.keyBusy = false → v.toNat % 8192 ≠ 0 →
      exec (.keyLoad v) s = .next (s.withDev { s.m with mgmt := { s.m.mgmt with keyBusy := true, keyCmd := some (true, v.toNat % 8192) } }) ∧
      exec (.keyErase v) s = .next (s.withDev { s.m with mgmt := { s.m.mgmt with keyBusy := true, keyCmd := some (false, v.toNat % 8192) } })) ∧
    (s.answers → s.m.mgmt.keyBusy = true → exec (.keyLoad v) s = .next s ∧ exec (.keyErase v) s = .next s) ∧
    ∀ load i, s.m.mgmt.keyCmd = some (load, i) → ∃ (u : State), exec .keyCmdComplete s = .next u ∧ u.m.mgmt.keyData = 0 ∧ u.m.mgmt.keyBusy = false ∧
      mget none u.m.mgmt.keys i = (if load then some s.m.mgmt.keyData else none) ∧
      (load = false → mget none u.m.mgmt.erased i = (mget none s.m.mgmt.keys i).or (mget none s.m.mgmt.erased i)) ∧ ∀ j, j ≠ i → mget none u.m.mgmt.keys j = mget none s.m.mgmt.keys j) ∧
  (∀ (s : State),
    let runs (i : Instr) (number count : Nat) (version : Word) : Prop := ∃ (u : State) (g : Mgmt), exec i s = .next u ∧ u = s.withDev { s.m with mgmt := g } ∧ g.boot = .running ∧ g.podSet = true ∧
      g.podDev = number ∧ g.bootNext = number + 1 ∧ g.bootLimit = number + count ∧ g.fwVer = version ∧ g.fwCode = 0 ∧ g.bootParent = s.m.mgmt.bootParent ∧
      ∀ l, l ∈ g.offers ↔ l < s.feat.links ∧ (g.link l).st = .up ∧ s.m.mgmt.bootParent ≠ some l
    (s.m.mgmt.bootRoot = true → s.m.mgmt.boot = .waiting →
      (s.m.mgmt.flashCode = 0 → runs .bootRootStart 0 4096 s.m.mgmt.flash) ∧
      (s.m.mgmt.flashCode ≠ 0 → exec .bootRootStart s = .next (s.withDev { s.m with mgmt := { s.m.mgmt with boot := .recovery, fwCode := s.m.mgmt.flashCode } }))) ∧
    (∀ ls : List Nat, s.m.mgmt.bootRoot = false → s.m.mgmt.boot = .waiting → (∃ l ∈ ls, l < s.feat.links ∧ (s.m.mgmt.link l).st = .up) →
      ∃ p, exec (.bootOfferReceived ls) s = .next (s.withDev { s.m with mgmt := { s.m.mgmt with boot := .verifying (some p) 3, bootParent := some p } }) ∧ p ∈ ls ∧
        p < s.feat.links ∧ (s.m.mgmt.link p).st = .up ∧ ∀ l ∈ ls, l < s.feat.links → (s.m.mgmt.link l).st = .up → p ≤ l) ∧
    ∀ (p : Option Nat) (n : Nat) (g : ImageCheck) (num count : Nat), s.m.mgmt.boot = .verifying p n → num + count ≤ 4096 → 0 < count →
      (g.wellFormed = true → g.ecdsaOk = true → g.lmsOk = true → runs (.bootImageVerified g { first := num, count := count }) num count g.version) ∧
      ((g.wellFormed = false ∨ g.ecdsaOk = false ∨ g.lmsOk = false) → ∃ (u : State), exec (.bootImageVerified g { first := num, count := count }) s = .next u ∧ u.m.mgmt.fwCode = imageCode g ∧ imageCode g ≠ 0 ∧
        u.m.mgmt.reports = s.m.mgmt.reports ++ [imageCode g] ∧ u.m.mgmt.podSet = s.m.mgmt.podSet ∧ u.m.mgmt.boot = if n = 0 then .recovery else .verifying p (n - 1))) ∧
  (∀ (s : State) (v : DWord) (g : ImageCheck),
    (s.answers → s.m.mgmt.fwBusy = none → imageCode g = 0 → ∃ (u : State), exec (.fwUpdateGo v g) s = .next u ∧ u.m.mgmt.fwBusy = some { version := g.version, die := 0 } ∧
      u.m.mgmt.fwDone = 0 ∧ u.m.mgmt.fwCode = 0 ∧ (u.m.die 0).placing = false) ∧
    (s.answers → s.m.mgmt.fwBusy = none → imageCode g ≠ 0 → ∃ (u : State), exec (.fwUpdateGo v g) s = .next u ∧ u.m.mgmt.fwCode = imageCode g ∧ u.m.mgmt.fwBusy = none ∧
      u.m.dies = s.m.dies) ∧
    (s.answers → s.m.mgmt.fwBusy.isSome → ∃ (u : State), exec (.fwUpdateGo v g) s = .next u ∧ u.m.mgmt.fwBusy = s.m.mgmt.fwBusy ∧ u.m.dies = s.m.dies) ∧
    ∀ x, s.m.mgmt.fwBusy = some x →
      (x.die < 4 → s.m.dieBusy s.feat x.die = false → ∃ (u : State), exec .fwDieUpdate s = .next u ∧ u.m.mgmt.fwBusy = some { x with die := x.die + 1 } ∧
        u.m.mgmt.fwDone.getLsbD x.die = true ∧ (u.m.die x.die).placing = true ∧ (x.die < 3 → (u.m.die (x.die + 1)).placing = false)) ∧
      (4 ≤ x.die → exec .fwUpdateComplete s = .next (s.withDev { s.m with mgmt := { s.m.mgmt with
        fwVer := x.version, flash := if s.m.mgmt.bootRoot then x.version else s.m.mgmt.flash, flashCode := if s.m.mgmt.bootRoot then 0 else s.m.mgmt.flashCode, fwBusy := none } })))

/-- R327, R331: a link that is lost goes down, its memory's dirty lines in L2 are stranded there with their bytes, its clean ones discarded, other lines stay, the timer starts and the link interrupt is
raised, and requests of a lost port's host that wait are discarded; the routes of a Colrok link keep their values and are lost; a link that has trained is up: a Colrok link with POD accepted, or before the
boot is done, which is the model's reading of R6 with R334 (log entry 65). When an offer is made on it is the model's reading too (log entry 66).

R328: WB is accepted while the timer runs and the selected port is up again, DISC always; when the command completes no line of the port or link that it named is
stranded, WB having written every byte of it, here of plaintext lines, to its memory and DISC none, but where WB finds it down again (the model's choice, log entry 64); the timer expires.

R12, R24, R321: a fatal die-ring link halts every context with "poison"; the core clock takes every value of its range, in steps of 50 MHz.

R326: a core with no resident block, on which nothing acts any more and nothing of a skein is left, is power-gated. -/
def Obligations.LinksClocksAndPower : Prop :=
  (let stranded (s u : State) (p : Nat) : Prop := (∀ q ∈ s.m.cores, q.2.l1 = []) → u.m.mem = s.m.mem ∧ ((s.m.l2.map (·.1)).Nodup → ∀ k b, mget none s.m.l2 k = some b →
    (s.m.behind p (512 * k) = false → mget none u.m.l2 k = some b) ∧
    (s.m.behind p (512 * k) = true → b.data = [] → mget none u.m.l2 k = none) ∧
    (s.m.behind p (512 * k) = true → b.data ≠ [] → ∃ y, mget none u.m.l2 k = some y ∧ y.data = b.data ∧ y.sectors = [] ∧ y.port = p ∧ ∀ q ∈ b.data, y.strandedLoc q.1 = true))
  (∀ (s : State) (p : Nat), p < 2 → s.m.mgmt.port p ≠ .down →
    ∃ (u : State), exec (.hostLinkLost p) s = .next u ∧ u.m.mgmt.port p = .down ∧ u.m.mgmt.strandTimer = true ∧ u.m.mgmt.strandExpired = false ∧ stranded s u p ∧ (∀ x ∈ u.m.home.outside, x.agent ≠ .host p) ∧
      u.m.mgmt.msi = s.m.mgmt.msi ++ [(s.m.mgmt.intVec.toNat / 2 ^ 59 % 2, s.m.mgmt.intVec.toNat / 2 ^ 48 % 2 ^ 11)]) ∧
    (∀ (s : State) (l : Nat), l < s.feat.links → (s.m.mgmt.link l).st ≠ .down →
      ∃ (u : State), exec (.colrokLinkLost l) s = .next u ∧ (u.m.mgmt.link l).st = .down ∧ u.m.mgmt.routes = s.m.mgmt.routes ∧ (∀ n, mget none s.m.mgmt.routes n = some l → n ∈ u.m.mgmt.routesLost) ∧ u.m.mgmt.strandTimer = true ∧ stranded s u (2 + l) ∧
        u.m.mgmt.msi = s.m.mgmt.msi ++ [(s.m.mgmt.intVec.toNat / 2 ^ 59 % 2, s.m.mgmt.intVec.toNat / 2 ^ 48 % 2 ^ 11)]) ∧
    (∀ (s : State) (p : Nat), p < 2 → ∃ (u : State), exec (.hostPortLinkUp p) s = .next u ∧ u.m.mgmt.port p = .up ∧ u.m.mgmt.port (1 - p) = s.m.mgmt.port (1 - p)) ∧
    ∀ (s : State) (l peer : Nat), l < s.feat.links → peer < 4096 → s.feat.has 5 = true ∨ s.m.mgmt.boot ≠ .running →
      ∃ (u : State), exec (.colrokLinkUp l peer) s = .next u ∧ u.m.mgmt.link l = { st := .up, peer := peer } ∧ ∀ k, k ≠ l → u.m.mgmt.link k = s.m.mgmt.link k) ∧
  (∀ (s : State) (v : DWord),
    (s.answers → s.m.mgmt.strandBusy = none → v.getLsbD 7 = false → s.m.mgmt.strandTimer = true → s.m.mgmt.port (if v.getLsbD 8 then 1 else 0) = .up →
      ∃ (u : State), exec (.strandWb v) s = .next u ∧ u.m.mgmt.strandBusy = some false ∧ u.m.mgmt.strandPort = v.getLsbD 8 ∧ u.m.mgmt.strandAt = if v.getLsbD 8 then 1 else 0) ∧
    (s.answers → s.m.mgmt.strandBusy = none → s.m.mgmt.strandTimer = false → ∃ (u : State), exec (.strandWb v) s = .next u ∧ u.m.mgmt.strandBusy = none ∧ u.m.l2 = s.m.l2) ∧
    (s.answers → s.m.mgmt.strandBusy = none → ∃ (u : State), exec (.strandDisc v) s = .next u ∧ u.m.mgmt.strandBusy = some true ∧ u.m.mgmt.strandPort = v.getLsbD 8 ∧ u.m.mgmt.strandAt = u.m.mgmt.strandTarget) ∧
    (∀ disc, s.m.mgmt.strandBusy = some disc → ∃ (u : State), exec .strandCmdComplete s = .next u ∧ u.m.mgmt.strandBusy = none ∧
      (disc = true → u.m.mem = s.m.mem) ∧
      (disc = true ∨ s.m.mgmt.targetUp s.m.mgmt.strandAt = true →
        ∀ k b, mget none s.m.l2 k = some b → b.stranded ≠ [] → b.port = s.m.mgmt.strandAt → ∀ y, mget none u.m.l2 k = some y → y.stranded = [] ∧ ∀ p ∈ y.data, b.strandedLoc p.1 = false) ∧
      (disc = false → s.m.mgmt.targetUp s.m.mgmt.strandAt = true → ∀ k b, s.m.l2 = [(k, some b)] → b.stranded ≠ [] → b.port = s.m.mgmt.strandAt → (∀ p ∈ b.stranded, p.2 = 0) →
        (b.data.map (·.1)).Nodup → ∀ x, Memory.byte u.m.mem x = if b.strandedLoc x then (mget none b.data x).getD (Memory.byte s.m.mem x) else Memory.byte s.m.mem x) ∧
      (disc = false → s.m.mgmt.targetUp s.m.mgmt.strandAt = false → u.m.l2 = s.m.l2 ∧ u.m.mem = s.m.mem)) ∧
    (s.m.mgmt.strandTimer = true →
      exec .strandTimerExpire s = .next (s.withDev { s.m with mgmt := { s.m.mgmt with strandTimer := false, strandExpired := true } }))) ∧
  ((∀ (s : State), ∃ (u : State), exec .ucieLinkFatal s = .next u ∧ ∀ a c, s.m.ctx a = some c → c.halt = none →
    ∃ c' f, u.m.ctx a = some c' ∧ c'.halt.isSome ∧ c'.waiting = c.waiting ++ [f] ∧ f.cause = 0x1C ∧ f.nr = true) ∧
    ∀ (s : State) (mhz : Nat), 700 ≤ mhz → mhz ≤ 1400 → mhz % 50 = 0 →
      exec (.coreClockChange mhz) s = .next (s.withDev { s.m with mgmt := { s.m.mgmt with coreMhz := mhz } })) ∧
  (∀ (s : State) (k : Nat), k < s.feat.coreCount → (s.m.core k).still = true → (s.m.core k).gated = false → (s.m.core k).skeins = [] →
    ∃ (u : State), exec (.corePowerGate k) s = .next u ∧ (u.m.core k).gated = true ∧ ∀ a e, (a, some e) ∈ (u.m.core k).l1 → False)

/-- R3, R4, R301, R307, R332: a device reset leaves no context, block or core state, LOCK and ACC clear, LMEM_BOUND at 0x0FA0 and nothing queued; what memory holds after it is
the model's choice (log entry 14). -/
def Obligations.DeviceResetClears : Prop :=
  ∀ (s : State), ∃ (u : State), exec .deviceReset s = .next u ∧ u.feat = { s.feat with acc := 0, lock := false } ∧ u.m.ctxs = [] ∧ u.m.cores = [] ∧ u.m.launches = [] ∧
    u.m.heldWrites = [] ∧ u.m.mgmt.lmem = 0x0FA0 ∧ u.m.mgmt.ctxSel = 0 ∧ u.m.mgmt.intVec = 0 ∧ u.m.mgmt.sdQueue = [] ∧ u.m.mgmt.sdDone = 0 ∧
    u.m.mgmt.podSet = false ∧ (∀ d, (u.m.die d).refmax = 0x40 ∧ (u.m.die d).on = false)

/-- R30, R340, R348, R350, R351, R406: a branch whose target lies below 2^57 (and, for BRX and RET, is a multiple of 8) leaves its clause for the target; CALL pushes the
address of the next clause on a stack of fewer than 32 entries, RET takes the last entry off; registers and predicates stay as they are. -/
def Obligations.BranchesGoOn : Prop :=
  ∀ (s : State) (c : Ctl) (f : BR) (e : Env) (t : Thread), s.runs c e t →
    let went (i : Instr) (pc : DWord) (st : List DWord) : Prop := ∃ (u : State), ∃ x, exec i s = .next u ∧ u.threadOf e = some x ∧ x.pc = pc ∧ x.inCourse = false ∧
      x.stack = st ∧ x.regs = t.regs ∧ x.pred = t.pred ∧ x.pend = t.pend ∧ onlyThread s u e.cu.core e.cu.blk e.cu.slot
    (vaBad (branchTarget e.cu.addr f.offset) = false → went (.bra c f) (branchTarget e.cu.addr f.offset) t.stack) ∧
    (vaBad (t.pair f.d.toNat) = false → (t.pair f.d.toNat).toNat % 8 = 0 → went (.brx c f) (t.pair f.d.toNat) t.stack) ∧
    (vaBad (branchTarget e.cu.addr f.offset) = false → t.stack.length < 32 →
      went (.call c f) (branchTarget e.cu.addr f.offset) (t.stack ++ [nextClause e.cu.addr e.cu.hdr])) ∧
    ∀ pc r, t.stack = r ++ [pc] → vaBad pc = false → pc.toNat % 8 = 0 → went (.ret c f) pc r

/-- R51, R55, R256, R257, R362, R406: EXIT, and RET with an empty stack, end the thread, an ordinary or a comet thread: STATE 7, its pending results discarded. A mask-form set of which it was the last
member to sign completes, its register closed and its signers released; another stays as it is. The end of a comet thread counts for its comet read, and with the last handler's the read is over and
its token there. That the comet values of a comet thread are gone with it is the model's choice (log entry 84). -/
def Obligations.ThreadsExit : Prop :=
  ∀ (s : State) (c : Ctl) (f : BR) (e : Env) (t : Thread), s.runs c e t → (∀ k, ∀ p ∈ (e.blk.stitch k).signers, p.1 ≠ e.cu.slot ∧ (e.blk.thread p.1).st = .stitch) →
    ∀ i ∈ [Instr.exit c f] ++ (if t.stack = [] then [Instr.ret c f] else []),
      ∃ (u : State), ∃ x, ∃ (b' : Block), exec i s = .next u ∧ u.threadOf e = some x ∧ u.m.block e.cu.core e.cu.blk = some b' ∧ x.st = .exited ∧ x.pend = [] ∧ x.regs = t.regs ∧ x.comet = none ∧ u.m.mem = s.m.mem ∧
        (∀ k, k < 16 →
          let y := e.blk.stitch k
          let full : Prop := y.mask = true ∧ y.member e.cu.slot = true ∧ y.open_ = true ∧ (y.decl = true ∨ y.setr = true) ∧
            ∀ j, j < 64 → y.memb.getLsbD j = true → y.base + j ≤ 2047 → y.signed.getLsbD j = true ∨ y.base + j = e.cu.slot ∨ (e.blk.thread (y.base + j)).st = .exited
          (¬full → b'.stitch k = y) ∧
          (full → (b'.stitch k).open_ = y.decl ∧ (b'.stitch k).signed = 0 ∧ (b'.stitch k).signers = [] ∧ (b'.stitch k).setr = false ∧ (b'.stitch k).posted = none ∧
            ∀ p ∈ y.signers, (b'.thread p.1).sgn.getLsbD k = false ∧ (b'.thread p.1).tmo = none)) ∧
        ∀ ci r, t.comet = some ci → (s.m.core e.cu.core).comets = [r] → r.org.id = ci.read →
          (r.toRequest ≠ [] → ∃ n, (u.m.core e.cu.core).comets = [{ r with ended := r.ended + 1, ending := (e.cu.slot, n) :: r.ending }]) ∧
          (r.toRequest = [] → r.inFlight = [] → r.landed = [] → r.ended + 1 = r.bursts → r.kn = none → s.m.live e.blk.asid = true → r.org.blk = e.cu.blk → r.org.slot ≠ e.cu.slot →
            (∀ k, (e.blk.stitch k).mask = false) → (s.m.core e.cu.core).accessesDone e.cu.blk ((e.cu.slot, s.m.nextId) :: r.ending) = true →
            (u.m.core e.cu.core).comets = [] ∧ (b'.thread r.org.slot).pend = ((e.blk.thread r.org.slot).obtain r.pend [BitVec.ofNat 32 (0x80000000 + r.cid % 2 ^ 24)]).pend)

/-- R30, R340, R350, R351, R406: a branch to an address of 2^57 or more, and a CALL on a full stack, take the protection fault (0x10); an indirect branch to no multiple of 8 takes
"misaligned" (0x14); a RET to a popped address that is out of range or misaligned likewise; either way the member executes no further word and its context's halt line rises. The stack stays as it
was, but where a CALL on a stack that does not hold 32 entries has pushed its return address before its target is found out of range.

R299, R305, R349, R422: TRAP and BRK raise non-replayable faults of causes 0x20 and 0x21 whose INFO0 is their code: the entry waits to be written, the context's
halt line rises, and the member executes no further word. That CYC is taken as the fault is raised is the
model's reading (log entry 51). -/
def Obligations.BadBranchesAndTrapsFault : Prop :=
  (∀ (s : State) (c : Ctl) (f : BR) (e : Env) (t : Thread) (x : Context), s.runs c e t → s.hasCtx e.blk.asid x →
    let faulted (i : Instr) (cause : Nat) (stack : List DWord) : Prop := ∃ (u : State) (t' : Thread) (x' : Context) (g : FaultInfo), exec i s = .next u ∧ u.threadOf e = some t' ∧ t'.stopped = true ∧ t'.pc = t.pc ∧
      t'.stack = stack ∧ t'.regs = t.regs ∧ u.m.mem = s.m.mem ∧ u.hasCtx e.blk.asid x' ∧ x'.waiting = x.waiting ++ [g] ∧ x'.halt.isSome ∧ g.cause = cause ∧ g.nr = true ∧ g.engine = .simt ∧
      g.core = e.cu.core ∧ g.slot = e.cu.slot ∧ g.addr = e.cu.addr ∧ g.word = e.cu.word
    (vaBad (branchTarget e.cu.addr f.offset) = true → faulted (.bra c f) 0x10 t.stack ∧
      (t.stack.length ≠ 32 → faulted (.call c f) 0x10 (t.stack ++ [nextClause e.cu.addr e.cu.hdr]))) ∧
    (t.stack.length = 32 → faulted (.call c f) 0x10 t.stack) ∧
    ((t.pair f.d.toNat).toNat % 8 ≠ 0 → faulted (.brx c f) 0x14 t.stack) ∧
    ((t.pair f.d.toNat).toNat % 8 = 0 → vaBad (t.pair f.d.toNat) = true → faulted (.brx c f) 0x10 t.stack) ∧
    ∀ r pc, t.stack = r ++ [pc] → (vaBad pc = true → faulted (.ret c f) 0x10 t.stack) ∧ (vaBad pc = false → pc.toNat % 8 ≠ 0 → faulted (.ret c f) 0x14 t.stack)) ∧
  (∀ (s : State) (c : Ctl) (f : RI) (e : Env) (t : Thread) (x : Context), s.runs c e t → s.hasCtx e.blk.asid x →
    ∀ p ∈ [(Instr.trap c f, 0x20), (.brk c f, 0x21)],
      ∃ (u : State) (t' : Thread) (x' : Context) (g : FaultInfo), exec p.1 s = .next u ∧ u.threadOf e = some t' ∧ t'.stopped = true ∧ u.hasCtx e.blk.asid x' ∧ x'.waiting = x.waiting ++ [g] ∧ x'.halt.isSome ∧
        (x.halt = none → (x'.halt.map fun h => h.primary) = some g) ∧ g.cause = p.2 ∧ g.nr = true ∧ g.engine = .simt ∧ g.info0 = f.imm ∧ g.core = e.cu.core ∧
        g.slot = e.cu.slot ∧ g.addr = e.cu.addr ∧ g.word = e.cu.word ∧ g.cyc = e.cyc ∧ g.susp = none ∧ u.m.mem = s.m.mem)

/-- R309, R419: STEP writes sr.step; while a cut of its context runs, an ordinary thread that reaches the target is held, and a comet thread never is. -/
def Obligations.StepWritesAndHolds : Prop :=
  ∀ (s : State) (c : Ctl) (f : RI) (e : Env) (t : Thread) (x : Context), s.runs c e t → s.hasCtx e.blk.asid x →
    ∃ (u : State) (t' : Thread), exec (.step c f) s = .next u ∧ u.threadOf e = some t' ∧ t'.step = f.imm ∧ t'.regs = t.regs ∧ t'.pc = t.pc ∧
      onlyThread s u e.cu.core e.cu.blk e.cu.slot ∧
      t'.cutHeld = (t.cutHeld || (t.comet.isNone && (x.cut.st == .running && decide (x.cut.target.toNat ≤ f.imm.toNat))))

/-- R52, R411, R412: the first SIGN of a phase of a stitch register that no launch declared brings the set: in count form one of two or more signatures, in mask form
one of several members; the signer parks in STATE 5 with its status pending and its bit of sr.sgn set, and the register counts it.

R52, R411: a thread that is no member of a mask-form set goes on at once with status 2.

R51, R52, R53, R55, R216, R411, R412, R413: a SIGN of a member, into a phase that it opens or that is open: where it does not complete the set the member waits, counted, the set kept as the first SIGN
or the launch gave it; where it does, with a count of 0 or 1 at once, the member goes on with status 0, every signer is released with status 0, the register closes but for a declared set's, and the
posted operation issues. A second signature of one thread is "double sign" (0x18); a set with a count above 2,048 or a base of 2,048 or more takes the shape fault of field 0x90 or 0x91. A mask-form set
that a SIGN records reads as CNT 1 (the model's choice, log entry 82).

R361: EVWAIT goes on where its event is set and no change of it by the thread is outstanding, else the member parks in STATE 4.

R375, R379: KNWAIT goes on where the knot's generation is no longer the operand's, else the member parks in STATE 3 on the knot. -/
def Obligations.StitchEventAndKnotWaits : Prop :=
  (∀ (s : State) (c : Ctl) (f : RRR) (e : Env) (t : Thread), s.runs c e t →
    let k := f.md.toNat % 16
    let waits (i : Instr) (cnt : Nat) (mask : Bool) : Prop := ∃ (u : State) (t' : Thread) (b : Block), exec i s = .next u ∧ u.threadOf e = some t' ∧ u.m.block e.cu.core e.cu.blk = some b ∧
      t'.st = .stitch ∧ t'.pc = nextClause e.cu.addr e.cu.hdr ∧ t'.inCourse = false ∧ t'.sgn = t.sgn ||| BitVec.twoPow 16 k ∧
      t'.pend.map (fun p => (p.dst, p.val)) = t.pend.map (fun p => (p.dst, p.val)) ++ [([f.d.toNat], none)] ∧
      t'.tmo = (if signTimeoutOf f t = 0 then none else some (signTimeoutOf f t)) ∧
      (b.stitch k).open_ = true ∧ (b.stitch k).setr = true ∧ (b.stitch k).mask = mask ∧ (b.stitch k).count = 1 ∧ (mask = false → (b.stitch k).cnt = cnt)
    e.blk.stitch k = Fresh.stitch → t.sgn.getLsbD k = false →
      (2 ≤ (t.reg f.a.toNat).toNat → (t.reg f.a.toNat).toNat ≤ 2048 → waits (.sign c f) (t.reg f.a.toNat).toNat false) ∧
      ((t.reg f.c.toNat).toNat = 0 → e.cu.slot < 64 → (t.pair f.a.toNat).getLsbD e.cu.slot = true →
        (∃ j, j < 64 ∧ j ≠ e.cu.slot ∧ (t.pair f.a.toNat).getLsbD j = true ∧ (e.blk.thread j).st ≠ .exited) → waits (.signMask c f) 0 true)) ∧
  (∀ (s : State) (c : Ctl) (f : RRR) (e : Env) (t : Thread), s.runs c e t → e.blk.stitch (f.md.toNat % 16) = Fresh.stitch → (t.reg f.c.toNat).toNat = 0 →
    e.cu.slot < 64 → (t.pair f.a.toNat).getLsbD e.cu.slot = false →
    ∃ (u : State) (t' : Thread), exec (.signMask c f) s = .next u ∧ u.threadOf e = some t' ∧ t'.reg f.d.toNat = 2 ∧ t'.pc = nextClause e.cu.addr e.cu.hdr ∧ t'.st ≠ .stitch) ∧
  (∀ (s : State) (c : Ctl) (f : RRR) (e : Env) (t : Thread) (x : Context) (mask : Bool), s.runs c e t → s.hasCtx e.blk.asid x →
    (∀ p ∈ t.pend, p.id ≠ s.m.nextId) →
    let i := if mask then Instr.signMask c f else .sign c f
    let k := f.md.toNat % 16
    let y := e.blk.stitch k
    let fresh := !(y.decl || y.setr)
    let n := (t.reg f.a.toNat).toNat
    let base := (t.reg f.c.toNat).toNat
    let z : Stitch :=
      if !fresh then { y with open_ := true }
      else if mask then { y with open_ := true, setr := true, mask := true, cnt := 1, base := base % 2048, memb := t.pair f.a.toNat }
      else { y with open_ := true, setr := true, mask := false, cnt := max 1 n, base := 0, memb := 0 }
    let full : Prop := if z.mask then ∀ j, j < 64 → z.memb.getLsbD j = true → z.base + j ≤ 2047 → z.signed.getLsbD j = true ∨ z.base + j = e.cu.slot ∨ (e.blk.thread (z.base + j)).st = .exited
      else z.cnt ≤ z.count + 1
    let bad (cause field : Nat) : Prop := ∃ (u : State) (x' : Context) (g : FaultInfo), exec i s = .next u ∧ u.hasCtx e.blk.asid x' ∧ x'.waiting = x.waiting ++ [g] ∧ x'.halt.isSome ∧ g.cause = cause ∧ g.field = field ∧ g.nr = true ∧
      g.slot = e.cu.slot
    (fresh = true → mask = false → 2048 < n → bad 0x15 0x90) ∧ (fresh = true → mask = true → 2048 ≤ base → bad 0x15 0x91) ∧
    ((fresh = true → if mask then base < 2048 else n ≤ 2048) → z.member e.cu.slot = true →
      (t.sgn.getLsbD k = true → bad 0x18 0) ∧
      (t.sgn.getLsbD k = false →
        (¬full → ∃ (u : State) (t' : Thread) (b' : Block), exec i s = .next u ∧ u.threadOf e = some t' ∧ u.m.block e.cu.core e.cu.blk = some b' ∧ t'.st = .stitch ∧ t'.sgn.getLsbD k = true ∧
          t'.pc = nextClause e.cu.addr e.cu.hdr ∧ (b'.stitch k) = { z with signers := z.signers ++ [(e.cu.slot, s.m.nextId)], count := z.count + 1
                                                                           signed := if z.mask then z.signed ||| BitVec.twoPow 64 (e.cu.slot - z.base) else z.signed }) ∧
        (full → (∀ p ∈ z.signers, p.1 ≠ e.cu.slot) → ∃ (u : State) (t' : Thread) (b' : Block), exec i s = .next u ∧ u.threadOf e = some t' ∧ u.m.block e.cu.core e.cu.blk = some b' ∧ t'.sgn.getLsbD k = false ∧
          t'.pc = nextClause e.cu.addr e.cu.hdr ∧ (t'.st = .ready ∨ t'.st = .results) ∧ t'.reg f.d.toNat = 0 ∧
          (∀ p ∈ z.signers, (b'.thread p.1).sgn.getLsbD k = false ∧ (b'.thread p.1).tmo = none ∧ ((b'.thread p.1).st = .ready ∨ (b'.thread p.1).st = .results)) ∧
          (∀ p ∈ z.signers, (z.signers.map (·.1)).Nodup → ∀ q r, (e.blk.thread p.1).pend = [q] → q.id = (e.blk.thread p.1).signPend → q.dst = [r] → q.dead = [] → (b'.thread p.1).reg r = 0) ∧
          (b'.stitch k).open_ = y.decl ∧ (b'.stitch k).setr = false ∧ (b'.stitch k).signed = 0 ∧ (b'.stitch k).count = 0 ∧ (b'.stitch k).signers = [] ∧ (b'.stitch k).posted = none ∧
          (z.posted = none → (u.m.core e.cu.core).matQ = (s.m.core e.cu.core).matQ ∧ (u.m.core e.cu.core).plyQ = (s.m.core e.cu.core).plyQ) ∧
          ∀ o, z.posted = some (.mat o) → z.backlog = [] → (s.m.core e.cu.core).heldFor .mat = [] → (s.m.core e.cu.core).matQ.length < 128 →
            ∃ q, (u.m.core e.cu.core).matQ = (s.m.core e.cu.core).matQ ++ [q] ∧ q.kind = o.kind ∧ q.org.bound = some k ∧ q.org.slot = o.org.slot ∧
              ∀ p ∈ z.signers ++ [(e.cu.slot, s.m.nextId)], p ∈ q.org.after)))) ∧
  (∀ (s : State) (c : Ctl) (f : SY) (e : Env) (t : Thread) (x : Context), s.runs c e t → s.hasCtx e.blk.asid x →
    (s.m.core e.cu.core).eventAhead e.cu.blk e.cu.slot (f.sel.toNat % 256) = false →
    ∃ (u : State) (t' : Thread), exec (.evwait c f) s = .next u ∧ u.threadOf e = some t' ∧ t'.pc = nextClause e.cu.addr e.cu.hdr ∧ t'.inCourse = false ∧ t'.regs = t.regs ∧
      onlyThread s u e.cu.core e.cu.blk e.cu.slot ∧
      (x.events.getLsbD (f.sel.toNat % 256) = false → t'.st = .event ∧ t'.evW = some (f.sel.toNat % 256)) ∧
      (x.events.getLsbD (f.sel.toNat % 256) = true → t'.st = .ready ∨ t'.st = .results)) ∧
  (∀ (s : State) (c : Ctl) (f : SY) (e : Env) (t : Thread), s.runs c e t → ∀ x, (s.m.core e.cu.core).knotOperand e.blk (t.reg f.a.toNat) = .ok x →
    ∃ (u : State) (t' : Thread), exec (.knwait c f) s = .next u ∧ u.threadOf e = some t' ∧ t'.pc = nextClause e.cu.addr e.cu.hdr ∧ t'.inCourse = false ∧
      onlyThread s u e.cu.core e.cu.blk e.cu.slot ∧
      (((s.m.core e.cu.core).knot x).gen = knotGen (t.reg f.a.toNat) → t'.st = .knot ∧ t'.knotW = some (x, knotGen (t.reg f.a.toNat))) ∧
      (((s.m.core e.cu.core).knot x).gen ≠ knotGen (t.reg f.a.toNat) → t'.st = .ready ∨ t'.st = .results))

/-- R292, R299, R380: LAUNCH appends its node to the device chain and writes 0, or with 256 nodes waiting writes 1 and appends nothing. An address that is no multiple of 128 takes
"misaligned" (0x14), one of 2^57 or more the protection fault (0x10), that one first (the order is the model's reading, log entry 35): nothing is appended, no register is written, and the
context's halt line rises. -/
def Obligations.LaunchAppends : Prop :=
  ∀ (s : State) (c : Ctl) (f : SY) (e : Env) (t : Thread) (x : Context), s.runs c e t → s.hasCtx e.blk.asid x →
    let waiting := x.devQ.length + (if x.dev.cur.isSome && !x.dev.started then 1 else 0)
    let bad (cause : Nat) : Prop := ∃ (u : State) (t' : Thread) (x' : Context) (g : FaultInfo), exec (.launch c f) s = .next u ∧ u.threadOf e = some t' ∧ t'.stopped = true ∧ t'.regs = t.regs ∧ u.hasCtx e.blk.asid x' ∧
      x'.devQ = x.devQ ∧ x'.waiting = x.waiting ++ [g] ∧ x'.halt.isSome ∧ g.cause = cause ∧ g.nr = true ∧ g.engine = .simt ∧ g.core = e.cu.core ∧ g.slot = e.cu.slot ∧
      g.addr = e.cu.addr ∧ g.word = e.cu.word ∧ g.va = t.pair f.a.toNat ∧ u.m.mem = s.m.mem
    (vaBad (t.pair f.a.toNat) = true → bad 0x10) ∧ (vaBad (t.pair f.a.toNat) = false → (t.pair f.a.toNat).toNat % 128 ≠ 0 → bad 0x14) ∧
    (vaBad (t.pair f.a.toNat) = false → (t.pair f.a.toNat).toNat % 128 = 0 → (waiting < 256 → ∃ (u : State) (t' : Thread) (x' : Context), ∃ d, exec (.launch c f) s = .next u ∧ u.threadOf e = some t' ∧ t'.reg f.d.toNat = 0 ∧ u.hasCtx e.blk.asid x' ∧
      x'.devQ = x.devQ ++ [d] ∧ d.addr = t.pair f.a.toNat ∧ d.core = e.cu.core ∧ d.blk = e.cu.blk ∧ d.slot = e.cu.slot) ∧
    (256 ≤ waiting → ∃ (u : State) (t' : Thread), exec (.launch c f) s = .next u ∧ u.threadOf e = some t' ∧ t'.reg f.d.toNat = 1 ∧ u.hasCtx e.blk.asid x))

/-- R74, R196, R346, R352, R382, R418: LD, ST, CAS, CAS128 and the ATOM words with an address below 2^57 that is a multiple of the size they access (twice it for CAS) issue one
access of that size and kind, in program order, with their destination registers pending: on a core with nothing outstanding, no skein and no cached translation it waits for a walk; behind
an earlier skein word it is held: R415 says so of SKMAP, and that SKFLUSH and SKQUERY hold it too is the model's reading (DEDUCED, log entry 31).

R139, R173, R196, R197, R199, R339, R345, R346, R352, R353, R382, R418: a load, store, compare-and-swap or ATOM word that nothing precedes, whose page the core has translated, with the
bytes it accesses in memory at rest, issues, and its request, two for a .b128 load or store (R198), performs it at the home: a load receives the bytes; a store replaces its bytes and no other; an
atomic receives the old bytes and replaces them by its function of them. A load whose bytes L1 holds, and a store to a private page that nothing watches, are performed in the word's own step. -/
def Obligations.MemoryWordsIssue : Prop :=
  (∀ (s : State) (c : Ctl) (f : MEM) (e : Env) (t : Thread) (ph : AccPhase) (first : Bool), s.runs c e t → vaBad (memVa e f t) = false →
    ((s.quiet e t ∧ (s.m.core e.cu.core).skeins = [] ∧ (s.m.core e.cu.core).tlb = [] ∧ ph = .walk ∧ first = true) ∨ (s.heldBack e ∧ ph = .new ∧ first = false)) →
    let n := tySize f.ty
    let va := memVa e f t
    let v := t.bytesAt f.data.toNat n
    let acc (k : AccKind) (n v cmp : Nat) : Access :=
      { e.access f k false va n v cmp with phase := ph, wideDone := first, asked := if first then s.m.nextId + 1 else 0 }
    (va.toNat % n = 0 →
      s.issues e t (.ld c f) (acc .load n 0 0) (regSpan f.d.toNat n) ∧
      s.issues e t (.st c f) (acc .store n v 0) [] ∧
      ∀ p ∈ [(Instr.atomAdd c f, if f.ty = 10 then AccKind.fadd else .add), (.atomMin c f, .min), (.atomMax c f, .max), (.atomAnd c f, .and),
          (.atomOr c f, .or), (.atomXor c f, .xor), (.atomExch c f, .exch), (.atomInc c f, .inc)],
        s.issues e t p.1 (acc p.2 n v 0) (regSpan f.d.toNat n)) ∧
    (va.toNat % (2 * n) = 0 → s.issues e t (.cas c f) (acc .cas n (t.bytesAt (f.data.toNat + n / 4) n) v) (regSpan f.d.toNat n)) ∧
    (va.toNat % 16 = 0 → s.issues e t (.cas128 c f) (acc .cas 16 (t.bytesAt (f.data.toNat + 4) 16) (t.bytesAt f.data.toNat 16)) (regSpan f.d.toNat 16))) ∧
  (∀ (s : State) (c : Ctl) (f : MEM) (e : Env) (t : Thread) (pg : Page), s.runs c e t → s.quiet e t → (s.m.core e.cu.core).skeins = [] →
    (s.m.core e.cu.core).requests < 1024 → (∀ p ∈ t.pend, p.id ≠ s.m.nextId) → vaBad (memVa e f t) = false →
    let k := e.cu.core
    let va := memVa e f t
    let n := tySize f.ty
    let maps (need : Need) : Prop := s.m.mapped s.feat k e.blk.asid va.toNat need pg
    let old (n : Nat) : List Byte := s.m.homeBytes 0 pg.loc n
    let ends (i : Instr) (j : Nat) (v : State) : Prop := ∃ (u : State), exec i s = .next u ∧ u.served k s.m.nextId j v ∧ (v.m.core k).accs = []
    let got (v : State) (dst : List Nat) (l : List Byte) : Prop := ∃ t', v.threadOf e = some t' ∧ t'.regs = t.regs ∧
      t'.pend = t.pend ++ [{ id := s.m.nextId, dst := dst, dead := [], val := some (loadWords f.ty l.length (ofBytes l)) }]
    let changes (i : Instr) (a : AccKind) (n v cmp : Nat) : Prop := ∃ (u : State), ends i 1 u ∧ got u (regSpan f.d.toNat n) (old n) ∧
      match atomicNew a (f.ty == 6 || f.ty == 7) n (ofBytes (old n)) v cmp with
      | some x => s.m.shows u.m pg.loc (toBytes n x)
      | none => s.m.shows u.m 0 []
    (pg.simple → va.toNat % n = 0 → s.m.atRest pg.loc n →
      (maps .read → ∃ (u : State), ends (.ld c f) (if n = 16 then 2 else 1) u ∧ got u (regSpan f.d.toNat n) (old n) ∧ s.m.shows u.m 0 []) ∧
      (maps .write → ∃ (u : State), ends (.st c f) (if n = 16 then 2 else 1) u ∧ s.m.shows u.m pg.loc (toBytes n (t.bytesAt f.data.toNat n))) ∧
      (maps .both → ∀ p ∈ [(Instr.atomAdd c f, if f.ty = 10 then AccKind.fadd else .add), (.atomMin c f, .min), (.atomMax c f, .max), (.atomAnd c f, .and),
          (.atomOr c f, .or), (.atomXor c f, .xor), (.atomExch c f, .exch), (.atomInc c f, .inc)], changes p.1 p.2 n (t.bytesAt f.data.toNat n) 0)) ∧
    (pg.simple → va.toNat % (2 * n) = 0 → s.m.atRest pg.loc n → maps .both →
      changes (.cas c f) .cas n (t.bytesAt (f.data.toNat + n / 4) n) (t.bytesAt f.data.toNat n)) ∧
    (pg.simple → va.toNat % 16 = 0 → s.m.atRest pg.loc 16 → maps .both →
      changes (.cas128 c f) .cas 16 (t.bytesAt (f.data.toNat + 4) 16) (t.bytesAt f.data.toNat 16)) ∧
    (va.toNat % n = 0 → n ≤ 8 → pg.comp = none →
      (∀ l, maps .read → f.hint ≠ 3 → (s.m.core k).l1Bytes pg.loc n = some l → ∃ (u : State), exec (.ld c f) s = .next u ∧ (u.m.core k).accs = [] ∧ got u (regSpan f.d.toNat n) l ∧
        u.m.mem = s.m.mem ∧ (u.m.core k).l1 = (s.m.core k).l1) ∧
      (maps .write → pg.cc = 0 → s.m.lineWatched pg.loc = false → s.m.linkUp s.feat pg.loc = true → s.m.alone → ∃ (u : State), exec (.st c f) s = .next u ∧
        (u.m.core k).accs = [] ∧ (u.m.core k).l1Bytes pg.loc n = some (toBytes n (t.bytesAt f.data.toNat n)) ∧ u.m.mem = s.m.mem ∧
        ∀ x, (x < pg.loc ∨ pg.loc + n ≤ x) → mget none (u.m.core k).l1 x = mget none (s.m.core k).l1 x)))

/-- R197, R339, R352, R353, R383, R415, R420: a memory word whose address is 2^57 or more takes the protection fault, one that is no multiple of the size (of twice the size for CAS, of 16 for CAS128) "misaligned" (0x14), and LDS or STS outside its block's
window or misaligned likewise 0x14; so does SKMAP whose descriptor lies at 2^57 or more, or at no multiple of 32: no access issues, memory stays, the member executes no further word and the halt line rises. -/
def Obligations.BadAddressesFault : Prop :=
  ∀ (s : State) (c : Ctl) (f : MEM) (h : SY) (e : Env) (t : Thread) (x : Context), s.runs c e t → s.hasCtx e.blk.asid x →
    let faulted (i : Instr) (cause : Nat) (va : DWord) : Prop := ∃ (u : State) (t' : Thread) (x' : Context) (g : FaultInfo), exec i s = .next u ∧ u.threadOf e = some t' ∧ t'.stopped = true ∧ t'.pend = t.pend ∧
      (u.m.core e.cu.core).accs = (s.m.core e.cu.core).accs ∧ u.m.mem = s.m.mem ∧ u.hasCtx e.blk.asid x' ∧ x'.waiting = x.waiting ++ [g] ∧ x'.halt.isSome ∧
      g.cause = cause ∧ g.nr = true ∧ g.va = va ∧ g.info0 = BitVec.ofNat 32 e.cu.pos
    (∀ i ∈ [Instr.ld c f, .st c f, .cas c f, .cas128 c f, .atomAdd c f, .atomMin c f, .atomMax c f, .atomAnd c f, .atomOr c f, .atomXor c f, .atomExch c f,
        .atomInc c f, .waitm c f],
      (vaBad (memVa e f t) = true → faulted i 0x10 (memVa e f t)) ∧
      ∀ n, n = (if i = .cas c f then 2 * tySize f.ty else if i = .cas128 c f then 16 else tySize f.ty) → vaBad (memVa e f t) = false → (memVa e f t).toNat % n ≠ 0 →
        faulted i 0x14 (memVa e f t)) ∧
    (vaBad (t.pair h.a.toNat) = true → faulted (.skmap c h) 0x10 (t.pair h.a.toNat)) ∧
    (vaBad (t.pair h.a.toNat) = false → (t.pair h.a.toNat).toNat % 32 ≠ 0 → faulted (.skmap c h) 0x14 (t.pair h.a.toNat)) ∧
    ∀ i ∈ [Instr.lds c f, .sts c f],
      (memStashOff e f t < 0 ∨ (e.blk.winSize : Int) < memStashOff e f t + tySize f.ty ∨ (memStashOff e f t).toNat % tySize f.ty ≠ 0) → faulted i 0x14 0

/-- R360, R367, R377, R378, R383, R415 to R417, R420: the stash words within their window, the fences, EVSET and EVCLR, KNINIT and an unposted KNARR on a knot of the block, and the
skein words issue one access each, in program order; here behind an earlier skein word (R415 has SKMAP hold them; that SKFLUSH and SKQUERY do too is the model's reading, DEDUCED, log entry 31). -/
def Obligations.StashFenceAndSystemWordsIssue : Prop :=
  ∀ (s : State) (c : Ctl) (f : MEM) (g : SY) (e : Env) (t : Thread), s.runs c e t → s.heldBack e →
    let n := tySize f.ty
    let off := memStashOff e f t
    (0 ≤ off → off + n ≤ e.blk.winSize → off.toNat % n = 0 →
      s.issues e t (.lds c f) (e.access f .load true (BitVec.ofInt 64 off) n 0 0) (regSpan f.d.toNat n) ∧
      s.issues e t (.sts c f) (e.access f .store true (BitVec.ofInt 64 off) n (t.bytesAt f.data.toNat n) 0) []) ∧
    s.issues e t (.fence c f) (e.access f .fence false 0 0 0 0) [] ∧ s.issues e t (.fenceFlush c f) (e.access f .flush false 0 0 0 0) [] ∧
    s.issues e t (.evset c g) (e.sysAccess .evSet false 0 0 (g.sel.toNat % 256) 3) [] ∧ s.issues e t (.evclr c g) (e.sysAccess .evClr false 0 0 (g.sel.toNat % 256) 0) [] ∧
    (∀ x, (s.m.core e.cu.core).knotOperand e.blk (t.reg g.a.toNat) = .ok x →
      s.issues e t (.kninit c g) (e.sysAccess .knInit true (BitVec.ofNat 64 (knotOff (t.reg g.a.toNat))) 16 (t.reg g.b.toNat).toNat 0) [] ∧
      (g.md.getLsbD 4 = false →
        s.issues e t (.knarr c g) (e.sysAccess .knArr true (BitVec.ofNat 64 (knotOff (t.reg g.a.toNat))) 16 g.imm.toNat 0) [])) ∧
    (vaBad (t.pair g.a.toNat) = false → (t.pair g.a.toNat).toNat % 32 = 0 →
      s.issues e t (.skmap c g) (e.sysAccess .skMap false (t.pair g.a.toNat) 32 (g.sel.toNat % 64) 0) []) ∧
    s.issues e t (.skunmap c g) (e.sysAccess .skUnmap false 0 0 (g.sel.toNat % 64) 0) [] ∧
    s.issues e t (.skflush c g) (e.sysAccess .skFlush false 0 0 (g.sel.toNat % 64) 0) [] ∧
    s.issues e t (.skflushAll c g) (e.sysAccess .skFlushAll false 0 0 0 0) [] ∧
    s.issues e t (.skquery c g) (e.sysAccess .skQuery false 0 8 (g.sel.toNat % 64) 0) [g.d.toNat, g.d.toNat + 1]

/-- R138, R383, R420: on a core without outstanding accesses or skeins LDS obtains the window's bytes and changes none, and STS stores its bytes and leaves every other byte
of the stash and all of memory as it was; a .b128 access does so in two 8-byte halves, the first in the word's own step and the second as the access is tried again (R198; that the lower half comes
first is the model's choice, log entry 100). -/
def Obligations.StashWordsPerform : Prop :=
  ∀ (s : State) (c : Ctl) (f : MEM) (e : Env) (t : Thread), s.runs c e t → s.quiet e t → (s.m.core e.cu.core).skeins = [] →
    let n := tySize f.ty
    let off := memStashOff e f t
    let k := s.m.core e.cu.core
    let x := e.blk.winBase + off.toNat
    let ends (i : Instr) (u : State) : Prop := if n ≤ 8 then exec i s = .next u else ∃ v, exec i s = .next v ∧ u = v.withDev (v.m.tryAccess s.feat e.cu.core s.m.nextId)
    0 ≤ off → off + n ≤ e.blk.winSize → off.toNat % n = 0 →
      ((∀ a ∈ s.m.poisoned, ¬(2 ^ 60 + e.cu.core * 2 ^ 20 + x ≤ a ∧ a < 2 ^ 60 + e.cu.core * 2 ^ 20 + x + n)) →
        ∃ (u : State) (t' : Thread), ends (.lds c f) u ∧ u.threadOf e = some t' ∧ (u.m.core e.cu.core).accs = [] ∧ (u.m.core e.cu.core).stash = k.stash ∧ u.m.mem = s.m.mem ∧
          ((∀ p ∈ t.pend, p.id ≠ s.m.nextId) → t'.pend = t.pend ++
            [{ id := s.m.nextId, dst := regSpan f.d.toNat n, dead := [], val := some (loadWords f.ty n (ofBytes (mreadBytes k.stash x n))) }])) ∧
      ∃ (u : State), ends (.sts c f) u ∧ (u.m.core e.cu.core).accs = [] ∧ u.m.mem = s.m.mem ∧
        ∀ a, mget 0 (u.m.core e.cu.core).stash a = if x ≤ a ∧ a < x + n then (toBytes n (t.bytesAt f.data.toNat n)).getD (a - x) 0 else mget 0 k.stash a

/-- R178, R206, R288, R360, R377, R378, R414 to R417: on a core without outstanding accesses or skeins a FENCE is performed at once and changes no byte; EVSET sets its event and EVCLR clears it,
and no other, and the walker tests its chains; KNINIT sets its knot's counts and keeps its generation; an unposted KNARR takes its count from the knot's and completes the phase where nothing is left; a count above
268,435,455 is refused with the protection fault, an arrival of more than is pending with "knot underflow" (0x19), the knot unchanged; SKUNMAP and SKFLUSH
of Free entries do nothing, SKQUERY reads 0, SKMAP loads its entry.

R144, R154, R157, R414 to R417: skein words on an entry that is not Free: one of another context, or attached to another block, gives SKUNMAP and SKFLUSH the protection fault and stays;
one of the block, or detached in its context, is Free after SKUNMAP where none of its words is dirty, else it leaves with its dirty segments Retiring; SKFLUSH sends a Dirty segment's words home and
leaves it Clean; SKQUERY answers the entry's state and its counts of segments; SKMAP takes the protection fault, and the entry stays, where it is attached to another block; an entry of the block, or a detached one of whatever context,
SKMAP replaces, here one with no dirty word to retire. -/
def Obligations.SystemWordsPerform : Prop :=
  (∀ (s : State) (c : Ctl) (f : MEM) (g : SY) (e : Env) (t : Thread) (x : Context), s.runs c e t → s.quiet e t → (s.m.core e.cu.core).skeins = [] → s.hasCtx e.blk.asid x →
    let k := s.m.core e.cu.core
    let done (i : Instr) (u : State) : Prop := exec i s = .next u ∧ (u.m.core e.cu.core).accs = []
    (∃ (u : State) (t' : Thread), done (.fence c f) u ∧ u.threadOf e = some t' ∧ t'.regs = t.regs ∧ t'.pend = t.pend ∧ u.m.mem = s.m.mem ∧ (u.m.core e.cu.core).stash = k.stash ∧
      (u.m.core e.cu.core).l1 = k.l1) ∧
    (k.l1 = [] → s.m.l2 = [] → ∃ (u : State), done (.fenceFlush c f) u ∧ u.m.mem = s.m.mem ∧ (u.m.core e.cu.core).stash = k.stash) ∧
    (let tested (y : Context) : Context := if s.m.walks e.blk.asid then y.testChains else y;
      (∃ (u : State), done (.evset c g) u ∧ u.m.mem = s.m.mem ∧ u.hasCtx e.blk.asid (tested { x with events := x.events ||| BitVec.twoPow 256 (g.sel.toNat % 256) })) ∧
      (∃ (u : State), done (.evclr c g) u ∧ u.m.mem = s.m.mem ∧ u.hasCtx e.blk.asid (tested { x with events := x.events &&& ~~~BitVec.twoPow 256 (g.sel.toNat % 256) })) ∧
      (x.main.node = none → x.dev.node = none → ∀ y : Context, y.main = x.main → y.dev = x.dev → tested y = y)) ∧
    (let bad (i : Instr) (cause : Nat) : Prop := ∃ (u : State) (x' : Context), ∃ z, done i u ∧ u.m.mem = s.m.mem ∧ (u.m.core e.cu.core).stash = k.stash ∧ u.hasCtx e.blk.asid x' ∧
        x'.waiting = x.waiting ++ [z] ∧ x'.halt.isSome ∧ z.cause = cause ∧ z.nr = true ∧ z.slot = e.cu.slot ∧ z.word = e.cu.word
      ∀ y, k.knotOperand e.blk (t.reg g.a.toNat) = .ok y →
      (268435455 < (t.reg g.b.toNat).toNat → bad (.kninit c g) 0x10) ∧ (g.md.getLsbD 4 = false → (k.knot y).pending < g.imm.toNat → bad (.knarr c g) 0x19) ∧
      ((t.reg g.b.toNat).toNat ≤ 268435455 → ∃ (u : State), done (.kninit c g) u ∧ u.m.mem = s.m.mem ∧
        (u.m.core e.cu.core).knot y = { gen := (k.knot y).gen, pending := (t.reg g.b.toNat).toNat, expected := (t.reg g.b.toNat).toNat, inbound := 0, outbound := 0 }) ∧
      (g.md.getLsbD 4 = false → g.imm.toNat ≤ (k.knot y).pending → ∃ (u : State), done (.knarr c g) u ∧ u.m.mem = s.m.mem ∧ (u.m.core e.cu.core).knot y =
        if (k.knot y).pending = g.imm.toNat ∧ (k.knot y).inbound = 0 ∧ (k.knot y).outbound = 0 then
          { k.knot y with gen := ((k.knot y).gen + 1) % 16, pending := (k.knot y).expected % 2 ^ 28 }
        else { k.knot y with pending := (k.knot y).pending - g.imm.toNat })) ∧
    (∀ i ∈ [Instr.skunmap c g, .skflush c g, .skflushAll c g], ∃ (u : State), done i u ∧ u.m.mem = s.m.mem ∧ (u.m.core e.cu.core).stash = k.stash ∧ (u.m.core e.cu.core).skeins = []) ∧
    ((∀ p ∈ t.pend, p.id ≠ s.m.nextId) → ∃ (u : State) (t' : Thread), done (.skquery c g) u ∧ u.threadOf e = some t' ∧ u.m.mem = s.m.mem ∧
      t'.pend = t.pend ++ [{ id := s.m.nextId, dst := [g.d.toNat, g.d.toNat + 1], dead := [], val := some [0, 0] }]) ∧
    ∀ l, vaBad (t.pair g.a.toNat) = false → (t.pair g.a.toNat).toNat % 32 = 0 → l.length = 32 → s.m.readsBy s.feat e.cu.core e.blk.asid (t.pair g.a.toNat).toNat 8 l →
      let d (i : Nat) : DWord := BitVec.ofNat 64 (ofBytes ((l.drop (8 * i)).take 8))
      let x := skeinOf (d 0) (d 1) (d 2) (d 3) e.blk.asid e.cu.blk e.blk.winBase
      skeinShape (d 0) (d 1) (d 2) x e.blk.winSize = none → s.m.skPending e.cu.core = [] →
        ∃ (u : State), done (.skmap c g) u ∧ (u.m.core e.cu.core).skeins = [(g.sel.toNat % 64, some x)] ∧ u.m.mem = s.m.mem ∧ (u.m.core e.cu.core).stash = k.stash) ∧
  (∀ (s : State) (c : Ctl) (g : SY) (e : Env) (t : Thread) (x : Context) (sk : Skein), s.runs c e t → s.quiet e t → s.hasCtx e.blk.asid x →
    let core := e.cu.core
    let k := g.sel.toNat % 64
    let st := s.m.entryState core e.blk.asid e.cu.blk k
    let done (i : Instr) (u : State) : Prop := exec i s = .next u ∧ (u.m.core core).accs = [] ∧ u.m.mem = s.m.mem ∧ (u.m.core core).stash = (s.m.core core).stash
    let bad (i : Instr) : Prop := ∃ (u : State) (x' : Context), ∃ z, done i u ∧ (u.m.core core).skeins = (s.m.core core).skeins ∧ u.hasCtx e.blk.asid x' ∧ x'.waiting = x.waiting ++ [z] ∧ x'.halt.isSome ∧ z.cause = 0x10 ∧
      z.nr = true ∧ z.slot = e.cu.slot
    let entry (u : State) : Option Skein := mget none (u.m.core core).skeins k
    entry s = some sk → sk.leaving = false → (st = if sk.asid ≠ e.blk.asid then 4 else if sk.blk = some e.cu.blk then 1 else if sk.blk = none then 3 else 2) ∧
      (st = 2 ∨ st = 4 → bad (.skunmap c g) ∧ bad (.skflush c g)) ∧
      (st = 1 ∨ st = 3 →
        ((∀ p ∈ sk.segs, p.2.wb = none ∧ s.m.segData core k p.1 = []) → ∃ (u : State), done (.skunmap c g) u ∧ entry u = none ∧ ∀ j, j ≠ k → mget none (u.m.core core).skeins j = mget none (s.m.core core).skeins j) ∧
        ((∃ p ∈ sk.segs, s.m.segData core k p.1 ≠ []) → ∃ (u : State), ∃ y, exec (.skunmap c g) s = .next u ∧ entry u = some y ∧ y.leaving = true ∧ u.m.mem = s.m.mem ∧
          ∀ p ∈ y.segs, p.2.st = .retiring ∧ ∃ n d, p.2.wb = some (n, d) ∧ d ≠ []) ∧
        ∀ i y, sk.segs = [(i, y)] → y.st = .dirty → y.wb = none → s.m.segData core k i ≠ [] → ∃ (u : State), ∃ z, done (.skflush c g) u ∧ (entry u).map (·.segs) = some [(i, z)] ∧ z.st = .clean ∧
          z.words = y.words.map (fun w => { w with dirty := false }) ∧ z.wb.map (·.2) = some (s.m.segData core k i)) ∧
      ((∀ p ∈ t.pend, p.id ≠ s.m.nextId) → ∃ (u : State) (t' : Thread), done (.skquery c g) u ∧ u.threadOf e = some t' ∧ (u.m.core core).skeins = (s.m.core core).skeins ∧
        let n (f : Seg → Bool) : Nat := (sk.segs.filter fun p => f p.2).length
        let v := st * 2 ^ 61 + if st = 4 then 0 else n (fun g => g.st == .clean || g.st == .dirty) * 2 ^ 32 + n (fun g => g.st == .dirty) * 2 ^ 16 + n (fun g => g.st == .filling)
        t'.pend = t.pend ++ [{ id := s.m.nextId, dst := [g.d.toNat, g.d.toNat + 1], dead := [], val := some (loadWords 3 8 (ofBytes (toBytes 8 v))) }]) ∧
      ∀ l, vaBad (t.pair g.a.toNat) = false → (t.pair g.a.toNat).toNat % 32 = 0 → l.length = 32 → s.m.readsBy s.feat core e.blk.asid (t.pair g.a.toNat).toNat 8 l →
        (∀ i, i < 4 → (s.m.core core).route e.blk.asid ((t.pair g.a.toNat).toNat + 8 * i) 8 = none) → s.m.skPending core = [] →
        let d (i : Nat) : DWord := BitVec.ofNat 64 (ofBytes ((l.drop (8 * i)).take 8))
        let y := skeinOf (d 0) (d 1) (d 2) (d 3) e.blk.asid e.cu.blk e.blk.winBase
        skeinShape (d 0) (d 1) (d 2) y e.blk.winSize = none → (s.m.core core).skeinClash k y = false →
        (sk.blk.isSome = true → sk.blk ≠ some e.cu.blk → bad (.skmap c g)) ∧
        (sk.blk = none ∨ sk.blk = some e.cu.blk → (∀ p ∈ sk.segs, p.2.wb = none ∧ s.m.segData core k p.1 = []) → ∃ (u : State), done (.skmap c g) u ∧ entry u = some y))

/-- R162, R227, R424 to R428: a sweep word whose runs lie in the window, with its offsets multiples of 64, puts its operation at the end of the sweep queue; one of no
iterations has no effect.

R46, R162, R424: a sweep word with an offset that is no multiple of 64, or a run outside its block's window, takes "misaligned" (0x14) as it issues: nothing enters the queue, no iteration is performed,
the member executes no further word and the halt line rises.

R227, R229, R387, R342: MMA and MMAS, unless bound, and ACCFREE, ACCZERO and ACCRD put one operation, its registers read as the word issues, at the end of the matrix queue.

R264, R265, R399 to R401, R397: the ply words, unless bound, put one operation at the end of the ply queue.

R227, R246, R265, R424: a matrix, sweep, ply or transfer word whose queue is full, or that an operation issued before it on the core still waits for, is held for its member, its operation as
it would have entered the queue. That words of a block which is away keep no place is the model's choice (log entry 101).

R53, R375, R378: a bound word, an arrival on a knot among them, posts its operation to its stitch register, whose phase is then open; where an operation is posted already it takes "double sign" (0x18) instead. -/
def Obligations.QueueWords : Prop :=
  (∀ (s : State) (c : Ctl) (f : SW) (e : Env) (t : Thread) (y : PruneType) (l : BitVec 3), s.runs c e t → (s.m.core e.cu.core).heldFor .sweep = [] → (s.m.core e.cu.core).sweepQ.length < 64 →
    ∀ p ∈ [(Instr.vadd c f, SweepKind.add), (.vmul c f, .mul), (.vfma c f, .fma), (.vmax c f, .max), (.vexp c f, .exp), (.vcopy c f, .copy), (.vsum c f, .sum),
        (.vrms c f, .rms), (.vsmb c f, .smb), (.vspc c y f, .spc y), (.vcvtPk c l f, .pk l.toNat), (.vcvtUp c l f, .up l.toNat)],
      (sweepOf e t f p.2 s.m.nextId).bad e.blk = false →
      (f.n ≠ 0 → ∃ (u : State), exec p.1 s = .next u ∧ u.threadOf e = some (t.mark c) ∧ u.m.mem = s.m.mem ∧
        (u.m.core e.cu.core).sweepQ = (s.m.core e.cu.core).sweepQ ++ [sweepOf e t f p.2 s.m.nextId] ∧ (u.m.core e.cu.core).stash = (s.m.core e.cu.core).stash) ∧
      (f.n = 0 → exec p.1 s = .next (s.ran e c fun x => x))) ∧
  (∀ (s : State) (c : Ctl) (f : SW) (e : Env) (t : Thread) (x : Context) (y : PruneType) (l : BitVec 3), s.runs c e t → s.hasCtx e.blk.asid x →
    ∀ p ∈ [(Instr.vadd c f, SweepKind.add), (.vmul c f, .mul), (.vfma c f, .fma), (.vmax c f, .max), (.vexp c f, .exp), (.vcopy c f, .copy), (.vsum c f, .sum),
        (.vrms c f, .rms), (.vsmb c f, .smb), (.vspc c y f, .spc y), (.vcvtPk c l f, .pk l.toNat), (.vcvtUp c l f, .up l.toNat)],
      ((sweepOf e t f p.2 s.m.nextId).bad e.blk = true ∨ (p.2 = .add ∧ f.n ≠ 0 ∧ ∃ r ∈ [f.d, f.a, f.b], (t.reg r.toNat).toNat % 64 ≠ 0)) →
      ∃ (u : State) (t' : Thread) (x' : Context) (g : FaultInfo), exec p.1 s = .next u ∧ u.threadOf e = some t' ∧ t'.stopped = true ∧ t'.held = t.held ∧ u.m.mem = s.m.mem ∧ (u.m.core e.cu.core).sweepQ = (s.m.core e.cu.core).sweepQ ∧
        (u.m.core e.cu.core).stash = (s.m.core e.cu.core).stash ∧ u.hasCtx e.blk.asid x' ∧ x'.waiting = x.waiting ++ [g] ∧ x'.halt.isSome ∧ g.cause = 0x14 ∧ g.nr = true ∧
        g.engine = .simt ∧ g.slot = e.cu.slot ∧ g.word = e.cu.word) ∧
  (∀ (s : State) (c : Ctl) (f : MX) (g : RRR) (l : BitVec 3) (e : Env) (t : Thread), s.runs c e t → (s.m.core e.cu.core).heldFor .mat = [] → (s.m.core e.cu.core).matQ.length < 128 →
    ∀ p ∈ (if f.sb = 0 then [(Instr.mma c f, mxOp e t f .mma s.m.nextId), (.mmas c f, mxOp e t f .mmas s.m.nextId)] else []) ++
        [(Instr.accfree c g, bareMat (e.origin t s.m.nextId) .free (g.md.toNat % 128)), (.acczero c g, bareMat (e.origin t s.m.nextId) .zero (g.md.toNat % 128)),
          (.accrd c l g, { bareMat (e.origin t s.m.nextId) .rd (g.md.toNat % 128) with aslot := l.toNat, off := t.reg g.a.toNat })],
      ∃ (u : State), exec p.1 s = .next u ∧ u.threadOf e = some (t.mark c) ∧ u.m.mem = s.m.mem ∧ (u.m.core e.cu.core).matQ = (s.m.core e.cu.core).matQ ++ [p.2] ∧
        (u.m.core e.cu.core).tiles = (s.m.core e.cu.core).tiles) ∧
  (∀ (s : State) (c : Ctl) (f : PL) (e : Env) (t : Thread), s.runs c e t → (s.m.core e.cu.core).heldFor .ply = [] → (s.m.core e.cu.core).plyQ.length < 64 →
    ∀ p ∈ (if f.sb = 0 then [(Instr.plymatch c f, PlyKind.match_)] else []) ++
        [(Instr.plymerge c f, PlyKind.merge), (.plysplit c f, .split), (.plykeep c f, .keep), (.plyfree c f, .free)],
      ∃ (u : State), exec p.1 s = .next u ∧ u.threadOf e = some (t.mark c) ∧ u.m.mem = s.m.mem ∧
        (u.m.core e.cu.core).plyQ = (s.m.core e.cu.core).plyQ ++ [plyOf e t f p.2 s.m.nextId]) ∧
  (∀ (s : State) (c : Ctl) (f : SW) (m : MX) (g : RRR) (h : PL) (x : TX) (y : PruneType) (l : BitVec 3) (e : Env) (t : Thread), s.runs c e t →
    let k := s.m.core e.cu.core
    let holds (i : Instr) (w : HeldWord) : Prop := ∃ (u : State), exec i s = .next u ∧ u.threadOf e = some { t.mark c with held := t.held ++ [w] } ∧ u.m.mem = s.m.mem ∧
      (u.m.core e.cu.core).sweepQ = k.sweepQ ∧ (u.m.core e.cu.core).matQ = k.matQ ∧ (u.m.core e.cu.core).plyQ = k.plyQ ∧ (u.m.core e.cu.core).xferQ = k.xferQ
    ((k.sweepQ.length = 64 ∨ k.heldFor .sweep ≠ []) → f.n ≠ 0 →
      ∀ p ∈ [(Instr.vadd c f, SweepKind.add), (.vmul c f, .mul), (.vfma c f, .fma), (.vmax c f, .max), (.vexp c f, .exp), (.vcopy c f, .copy), (.vsum c f, .sum),
          (.vrms c f, .rms), (.vsmb c f, .smb), (.vspc c y f, .spc y), (.vcvtPk c l f, .pk l.toNat), (.vcvtUp c l f, .up l.toNat)],
        (sweepOf e t f p.2 s.m.nextId).bad e.blk = false → holds p.1 (.sweep (sweepOf e t f p.2 s.m.nextId))) ∧
    ((k.matQ.length = 128 ∨ k.heldFor .mat ≠ []) →
      ∀ p ∈ (if m.sb = 0 then [(Instr.mma c m, mxOp e t m .mma s.m.nextId), (.mmas c m, mxOp e t m .mmas s.m.nextId)] else []) ++
          [(Instr.accfree c g, bareMat (e.origin t s.m.nextId) .free (g.md.toNat % 128)), (.acczero c g, bareMat (e.origin t s.m.nextId) .zero (g.md.toNat % 128)),
            (.accrd c l g, { bareMat (e.origin t s.m.nextId) .rd (g.md.toNat % 128) with aslot := l.toNat, off := t.reg g.a.toNat })],
        holds p.1 (.mat p.2)) ∧
    ((k.plyQ.length = 64 ∨ k.heldFor .ply ≠ []) →
      ∀ p ∈ (if h.sb = 0 then [(Instr.plymatch c h, PlyKind.match_)] else []) ++ [(Instr.plymerge c h, PlyKind.merge), (.plysplit c h, .split), (.plykeep c h, .keep), (.plyfree c h, .free)],
        holds p.1 (.ply (plyOf e t h p.2 s.m.nextId))) ∧
    ((k.xferQ.length = 256 ∨ k.heldFor .xfer ≠ []) → (x.mode.getLsbD 0 = true → ∃ z, k.knotOperand e.blk (t.reg x.kn.toNat) = .ok z) →
      let kn := if x.mode.getLsbD 0 then some (t.reg x.kn.toNat) else none
      (∃ (u : State) (t' : Thread) (o : XferOp), exec (.copy c x) s = .next u ∧ u.threadOf e = some t' ∧ t'.held = t.held ++ [.xfer o] ∧ o.comet = false ∧ o.org.id = s.m.nextId ∧ o.sh = t.pair x.shape.toNat ∧ o.kn = kn ∧
        t'.unsealed = t.unsealed ++ [s.m.nextId] ∧ (u.m.core e.cu.core).xferQ = k.xferQ) ∧
      (e.blk.rec_.cres ≠ 0 → t.comet = none → (t.pair x.hd.toNat).toNat % 8 = 0 → ∃ (u : State) (t' : Thread) (o : XferOp), exec (.comet c x) s = .next u ∧ u.threadOf e = some t' ∧ t'.held = t.held ++ [.xfer o] ∧
        o.comet = true ∧ o.org.id = s.m.nextId ∧ o.sh = t.pair x.shape.toNat ∧ o.kn = kn ∧ (u.m.core e.cu.core).xferQ = k.xferQ))) ∧
  (∀ (s : State) (c : Ctl) (f : MX) (h : PL) (g : SY) (e : Env) (t : Thread) (x : Context), s.runs c e t → f.sb = 1 → h.sb = 1 → h.stitch = f.stitch → g.md.getLsbD 4 = true → g.md.toNat % 16 = f.stitch.toNat →
    s.hasCtx e.blk.asid x → ∀ at_, (s.m.core e.cu.core).knotOperand e.blk (t.reg g.a.toNat) = .ok at_ →
    ∀ p ∈ [(Instr.mma c f, Posted.mat (mxOp e t f .mma s.m.nextId)), (.mmas c f, .mat (mxOp e t f .mmas s.m.nextId)), (.plymatch c h, .ply (plyOf e t h .match_ s.m.nextId)),
        (.knarr c g, .knarr (e.origin t s.m.nextId) at_ g.imm.toNat)],
      ((e.blk.stitch f.stitch.toNat).posted = none → ∃ (u : State) (b : Block), exec p.1 s = .next u ∧ u.m.block e.cu.core e.cu.blk = some b ∧
        (b.stitch f.stitch.toNat).posted = some p.2 ∧ (b.stitch f.stitch.toNat).open_ = true ∧ (b.stitch f.stitch.toNat).poster = e.cu.slot ∧
        (u.m.core e.cu.core).matQ = (s.m.core e.cu.core).matQ ∧ (u.m.core e.cu.core).plyQ = (s.m.core e.cu.core).plyQ ∧ (u.m.core e.cu.core).stash = (s.m.core e.cu.core).stash) ∧
      ((e.blk.stitch f.stitch.toNat).posted.isSome → ∃ (u : State) (x' : Context) (g : FaultInfo), exec p.1 s = .next u ∧ u.hasCtx e.blk.asid x' ∧ x'.waiting = x.waiting ++ [g] ∧ g.cause = 0x18 ∧ g.nr = true))

/-- R234: ACCALLOC reserves the lowest run of free names that fits its launch's limit, and waits for that many physical tiles with its register pending. Where no run fits, or the block would then hold
more names than the limit, it takes the protection fault: no name is reserved, and nothing waits.

R237: RSTL records a label that lies below 2^57 and is a multiple of 8, with its mask, and checkpoints the registers of the mask in the thread's restart area; another label takes
"misaligned". -/
def Obligations.TileNamesAndRestartLabels : Prop :=
  (∀ (s : State) (c : Ctl) (f : RRR) (e : Env) (t : Thread) (h : Nat), s.runs c e t →
    let n := f.md.toNat % 128
    (h + n ≤ e.blk.rec_.amax → h ≤ 96 → (∀ i, i < n → e.blk.nameFree (h + i) = true) →
    (∀ g, g < h → ∃ i, i < n ∧ e.blk.nameFree (g + i) = false) → e.blk.tiles.length + n ≤ e.blk.rec_.amax →
      ∃ (u : State) (t' : Thread) (b : Block), ∃ w, exec (.accalloc c f) s = .next u ∧ u.threadOf e = some t' ∧ u.m.block e.cu.core e.cu.blk = some b ∧
        t'.pend = t.pend ++ [{ id := s.m.nextId, dst := [f.d.toNat], dead := [], val := none }] ∧ (∀ i, i < n → mget none b.tiles (h + i) = some .reserved) ∧
        (∀ j, (j < h ∨ h + n ≤ j) → mget none b.tiles j = mget none e.blk.tiles j) ∧ (u.m.core e.cu.core).accWaits = (s.m.core e.cu.core).accWaits ++ [w] ∧ w.first = h ∧ w.n = n) ∧
    ∀ x, s.hasCtx e.blk.asid x → (e.blk.rec_.amax < e.blk.tiles.length + n ∨ ∀ g, g ≤ 96 → g + n ≤ e.blk.rec_.amax → ∃ i, i < n ∧ e.blk.nameFree (g + i) = false) →
      ∃ (u : State) (t' : Thread) (b : Block) (x' : Context) (g : FaultInfo), exec (.accalloc c f) s = .next u ∧ u.threadOf e = some t' ∧ t'.stopped = true ∧ t'.pend = t.pend ∧ u.m.block e.cu.core e.cu.blk = some b ∧ b.tiles = e.blk.tiles ∧
        (u.m.core e.cu.core).accWaits = (s.m.core e.cu.core).accWaits ∧ u.hasCtx e.blk.asid x' ∧ x'.waiting = x.waiting ++ [g] ∧ x'.halt.isSome ∧ g.cause = 0x10 ∧ g.nr = true ∧ g.slot = e.cu.slot) ∧
  (∀ (s : State) (c : Ctl) (f : RRR) (e : Env) (t : Thread), s.runs c e t →
    (labelBad (t.pair f.a.toNat) = false → ∃ (u : State) (t' : Thread) (b : Block), exec (.rstl c f) s = .next u ∧ u.threadOf e = some t' ∧ u.m.block e.cu.core e.cu.blk = some b ∧
      b.rstLabel = t.pair f.a.toNat ∧ b.rstMask = t.pair f.b.toNat ∧ t'.regs = t.regs ∧
      (∀ j, j < 64 → mget 0 t'.area j = if (t.pair f.b.toNat).getLsbD j then t.reg j else mget 0 t.area j)) ∧
    ∀ x, s.hasCtx e.blk.asid x → labelBad (t.pair f.a.toNat) = true → ∃ (u : State) (x' : Context) (g : FaultInfo), exec (.rstl c f) s = .next u ∧ u.hasCtx e.blk.asid x' ∧
      x'.waiting = x.waiting ++ [g] ∧ g.cause = 0x14 ∧ g.va = t.pair f.a.toNat)

/-- R65, R246, R248, R253, R254, R356, R357, R409: COPY and COMET, without a knot or with a good knot operand, put one transfer at the end of the transfer queue, a COPY joining the thread's unsealed batch and a COMET's token pending; SEAL
closes the batch under the thread's next number with its token pending.

R46, R65, R246, R254, R356, R357: a COMET of a block without a comet reserve, or of a comet thread, takes the protection fault, one whose handler is no multiple of 8 "misaligned"; a COPY or COMET
with a bad knot operand takes the fault of that operand. The word issues nothing: the queue, the comet count and the thread's pending registers stay.

R193, R215, R403, R405: a prefetch hint waits for the accesses that precede it in its thread; it opens no pending write and changes neither memory nor a register.

R193, R259, R403, R404, R405: a PREF that nothing precedes, whose address lies in memory at rest that its scope reaches, brings its line into L2 and, unless its hint is 3, into L1, and changes
no byte; one of 2^57 or more is dropped and counted in DROPPED. A PREF.list whose record is misaligned is dropped and counted; one whose record the core can read has every element of its list left to do;
an element goes on in the background: it is made, or dropped and counted, as is one whose index is out of range, and the rest is left, or it waits. -/
def Obligations.TransferAndPrefetchWords : Prop :=
  (∀ (s : State) (c : Ctl) (f : TX) (e : Env) (t : Thread), s.runs c e t → (s.m.core e.cu.core).heldFor .xfer = [] → (s.m.core e.cu.core).xferQ.length < 256 →
    ((f.mode.getLsbD 0 = true → ∃ z, (s.m.core e.cu.core).knotOperand e.blk (t.reg f.kn.toNat) = .ok z) →
      let kn := if f.mode.getLsbD 0 then some (t.reg f.kn.toNat) else none
      (∃ (u : State) (t' : Thread) (o : XferOp), exec (.copy c f) s = .next u ∧ u.threadOf e = some t' ∧ t'.unsealed = t.unsealed ++ [s.m.nextId] ∧ t'.pend = t.pend ∧ u.m.mem = s.m.mem ∧
        (u.m.core e.cu.core).xferQ = (s.m.core e.cu.core).xferQ ++ [o] ∧ o.comet = false ∧ o.sh = t.pair f.shape.toNat ∧ o.hd = t.pair f.hd.toNat ∧ o.kn = kn ∧
        o.org.id = s.m.nextId) ∧
      (e.blk.rec_.cres ≠ 0 → t.comet = none → (t.pair f.hd.toNat).toNat % 8 = 0 →
        ∃ (u : State) (t' : Thread) (o : XferOp) (b : Block), exec (.comet c f) s = .next u ∧ u.threadOf e = some t' ∧ u.m.block e.cu.core e.cu.blk = some b ∧ b.cometCount = (e.blk.cometCount + 1) % 2 ^ 32 ∧
          t'.pend = t.pend ++ [{ id := s.m.nextId, dst := [f.tok.toNat], dead := [], val := none }] ∧ u.m.mem = s.m.mem ∧
          (u.m.core e.cu.core).xferQ = (s.m.core e.cu.core).xferQ ++ [o] ∧ o.comet = true ∧ o.cid = e.blk.cometCount ∧ o.hd = t.pair f.hd.toNat ∧ o.kn = kn ∧
          o.args = [t.reg f.arg.toNat, t.reg (f.arg.toNat + 1), t.reg (f.arg.toNat + 2), t.reg (f.arg.toNat + 3)])) ∧
    (t.held = [] → t.batches = [] → t.unsealed ≠ [] → (∀ i ∈ t.unsealed, (s.m.core e.cu.core).copyOpen t i = true) →
      ∃ (u : State) (t' : Thread), exec (.seal c f) s = .next u ∧ u.threadOf e = some t' ∧ t'.unsealed = [] ∧ t'.nextBatch = t.nextBatch + 1 ∧
        t'.batches = [{ num := t.nextBatch, copies := t.unsealed, pend := s.m.nextId }] ∧
        t'.pend = t.pend ++ [{ id := s.m.nextId, dst := [f.tok.toNat], dead := [], val := none }])) ∧
  (∀ (s : State) (c : Ctl) (f : TX) (e : Env) (t : Thread) (x : Context), s.runs c e t → s.hasCtx e.blk.asid x →
    let bad (i : Instr) (cause : Nat) : Prop := ∃ (u : State) (t' : Thread) (b : Block) (x' : Context) (g : FaultInfo), exec i s = .next u ∧ u.threadOf e = some t' ∧ t'.stopped = true ∧ t'.pend = t.pend ∧ t'.held = t.held ∧ t'.unsealed = t.unsealed ∧
      u.m.block e.cu.core e.cu.blk = some b ∧ b.cometCount = e.blk.cometCount ∧ (u.m.core e.cu.core).xferQ = (s.m.core e.cu.core).xferQ ∧ u.m.mem = s.m.mem ∧ u.hasCtx e.blk.asid x' ∧
      x'.waiting = x.waiting ++ [g] ∧ x'.halt.isSome ∧ g.cause = cause ∧ g.nr = true ∧ g.engine = .simt ∧ g.slot = e.cu.slot ∧ g.word = e.cu.word
    (e.blk.rec_.cres = 0 ∨ t.comet.isSome → bad (.comet c f) 0x10) ∧
    (e.blk.rec_.cres ≠ 0 → t.comet = none → (t.pair f.hd.toNat).toNat % 8 ≠ 0 → bad (.comet c f) 0x14) ∧
    ∀ z, f.mode.getLsbD 0 = true → (s.m.core e.cu.core).knotOperand e.blk (t.reg f.kn.toNat) = .error z →
      bad (.copy c f) z ∧ (e.blk.rec_.cres ≠ 0 → t.comet = none → (t.pair f.hd.toNat).toNat % 8 = 0 → bad (.comet c f) z)) ∧
  (∀ (s : State) (c : Ctl) (f : MEM) (h : TX) (e : Env) (t : Thread), s.runs c e t → (s.m.core e.cu.core).prefs = [] →
    (∃ a ∈ (s.m.core e.cu.core).accs, a.blk = e.cu.blk ∧ a.slot = e.cu.slot ∧ a.id < s.m.nextId ∧ a.coreDone = false) →
    ∀ i ∈ [Instr.pref c f, .prefList c h], ∃ (u : State), ∃ p, exec i s = .next u ∧ u.threadOf e = some (t.mark c) ∧ u.m.mem = s.m.mem ∧ (u.m.core e.cu.core).prefs = [p] ∧
      (u.m.core e.cu.core).accs = (s.m.core e.cu.core).accs ∧ (u.m.core e.cu.core).l1 = (s.m.core e.cu.core).l1 ∧ u.m.l2 = s.m.l2 ∧ u.m.ctxs = s.m.ctxs ∧
      (i = .pref c f → p.list = false ∧ p.va = BitVec.ofInt 64 ((t.pair f.base.toNat).toNat + signExtend f.offset.toNat 16) ∧ p.n = tySize f.ty) ∧
      (i = .prefList c h → p.list = true ∧ p.va = t.pair h.shape.toNat)) ∧
  (∀ (s : State) (c : Ctl) (f : MEM) (h : TX) (e : Env) (t : Thread), s.runs c e t → s.quiet e t → (s.m.core e.cu.core).prefs = [] → (s.m.core e.cu.core).skeins = [] →
    s.m.live e.blk.asid = true →
    let k := e.cu.core
    let va := ((t.pair f.base.toNat).toNat : Int) + signExtend f.offset.toNat 16
    let a := (BitVec.ofInt 64 va).toNat / tySize f.ty * tySize f.ty
    let done (i : Instr) (u : State) : Prop := exec i s = .next u ∧ u.threadOf e = some (t.mark c) ∧ (u.m.core k).prefs = [] ∧ u.m.mem = s.m.mem
    (∀ pg, a < 2 ^ 57 → s.m.mapped s.feat k e.blk.asid a .read pg → pg.simple → s.m.atRest (pg.loc / 128 * 128) 128 → s.m.beyondScope s.feat k pg f.scope = false →
      (s.m.core k).requests < 1024 → ∃ (u : State), ∃ y, done (.pref c f) u ∧ mget none u.m.l2 (pg.loc / 512) = some y ∧ (∀ i, i < 4 → (pg.loc / 128 * 4 + i) % 16 ∈ y.sectors) ∧ s.m.shows u.m 0 [] ∧
        (f.hint ≠ 3 → ∀ i, i < 128 → ((u.m.core k).l1Bytes (pg.loc / 128 * 128 + i) 1) = some (s.m.homeBytes 0 (pg.loc / 128 * 128 + i) 1))) ∧
    (∀ x, 2 ^ 57 ≤ a → s.hasCtx e.blk.asid x → ∃ (u : State), done (.pref c f) u ∧ u.hasCtx e.blk.asid { x with dropped := min 0xFFFFFFFF (x.dropped + 1) }) ∧
    (∀ x, (t.pair h.shape.toNat).toNat % 64 ≠ 0 → s.hasCtx e.blk.asid x →
      ∃ (u : State), done (.prefList c h) u ∧ u.hasCtx e.blk.asid { x with dropped := min 0xFFFFFFFF (x.dropped + 1) }) ∧
    (∀ (l : List Byte), l.length = 64 → (t.pair h.shape.toNat).toNat % 64 = 0 → s.m.readsBy s.feat k e.blk.asid (t.pair h.shape.toNat).toNat 8 l →
      let d (i : Nat) : Nat := ofBytes ((l.drop (8 * i)).take 8)
      let sh := shapeOf d
      shapeReserved d = false → sh.elog ≤ 4 → sh.mode = 1 → sh.early false = none → sh.empty = false → sh.late = none →
        let p : PrefRun :=
          { org := e.origin t s.m.nextId, list := true, va := t.pair h.shape.toNat, n := 64, scope := 3, hint := 0, target := h.mode.toNat % 4, left := some (sh, List.range sh.ty) }
        ∃ (u : State), exec (.prefList c h) s = .next u ∧ u.threadOf e = some (t.mark c) ∧ u.m.mem = s.m.mem ∧ (u.m.core k).prefs = [p] ∧ (u.m.core k).l1 = (s.m.core k).l1 ∧ u.m.l2 = s.m.l2 ∧ u.m.ctxs = s.m.ctxs) ∧
    ∀ (m : Dev) (ft : Features) (core : Nat) (b : Block) (p : PrefRun) (sh : Shape) (j : Nat) (r : List Nat) (x : Context), p.list = true → p.left = some (sh, j :: r) → m.ctx b.asid = some x →
      let dropped (v : Dev) : Prop := v.mem = m.mem ∧ v.ctx b.asid = some { x with dropped := min 0xFFFFFFFF (x.dropped + 1) }
      (∀ m1, (prefElement ft (prefAgent core b.asid p.org.id) core b p.target sh j).go m = (.ok true, m1) → m.prefStep ft core b p = (p.rest sh r, m1)) ∧
      (∀ m1, (prefElement ft (prefAgent core b.asid p.org.id) core b p.target sh j).go m = (.error .wait, m1) → m.prefStep ft core b p = (some p, m1)) ∧
      (∀ m1, (prefElement ft (prefAgent core b.asid p.org.id) core b p.target sh j).go m = (.ok false, m1) → ∃ v, m.prefStep ft core b p = (p.rest sh r, v) ∧ dropped v) ∧
      ∀ ix, sh.ey ≤ ix → ix < 2 ^ 32 → (m.core core).skeins = [] → m.reads ft core b.asid (sh.idx + 4 * j) .read (toBytes 4 ix) →
        ∃ v, m.prefStep ft core b p = (p.rest sh r, v) ∧ dropped v)

/-- R43, R47, R57: an issue slot without a course, four core cycles or more after its last, forms one where a thread of its block slots is eligible: of 1 to 32 eligible
threads of one block at one clause address, in ascending slot order; it has entered no clause yet and holds the slot for four cycles. -/
def Obligations.CoursesForm : Prop :=
  ∀ (s : State) (core islot : Nat),
    let c := { s.m.core core with blocks := (s.m.core core).blocks.filter fun b => s.m.live b.asid }
    islot < 4 → c.course islot = none → mget 0 c.hold islot = 0 →
    (∃ b ∈ c.blocks, ∃ p ∈ b.threads, issueSlotOf p.1 = islot ∧ c.eligible b p.2 = true) →
    ∃ (u : State), ∃ x, exec (.courseForm core islot) s = .next u ∧ (u.m.core core).course islot = some x ∧ x.entered = false ∧ x.members ≠ [] ∧ x.members.length ≤ 32 ∧
      x.members.Pairwise (fun a b => a ≤ b) ∧ mget 0 (u.m.core core).hold islot = 4 ∧ (u.m.core core).blocks = (s.m.core core).blocks ∧
      ∃ b ∈ c.blocks, b.id = x.blk ∧ ∀ k ∈ x.members, ∃ p ∈ b.threads, p.1 = k ∧ issueSlotOf k = islot ∧ c.eligible b p.2 = true ∧ p.2.pc = x.addr

/-- R44, R67, R72: a course enters its clause with those members whose waits and scoreboard pass, none of which has a bad knot operand; where a word of the clause does not
decode, one fault is taken instead, for the member with the lowest slot, and the course dissolves. -/
def Obligations.ClausesAreEntered : Prop :=
  ∀ (s : State) (core islot : Nat) (x : Course) (b : Block) (bc : BufClause), (s.m.core core).course islot = some x → x.entered = false →
    s.m.block core x.blk = some b → (s.m.core core).clause b.asid x.addr = some bc → s.m.live b.asid = true → headerBad bc.hdr = false →
    (∀ k ∈ x.members, (s.m.core core).knotFault b (b.thread k) bc = none) →
    let c := s.m.core core
    let ms := x.members.filter fun k => standsReady b (b.thread k) && (b.thread k).pc == x.addr && c.mayEnter b (b.thread k) bc && c.knotReady b (b.thread k) bc
    (ms ≠ [] → clauseFault s.feat bc.hdr bc.words = none → ∃ (u : State), exec (.clauseEnter core islot) s = .next u ∧
      (u.m.core core).course islot = some { x with members := ms, entered := true, pos := 0, idx := 0 } ∧
      (∀ k ∈ ms, u.m.thread core x.blk k = some { b.thread k with inCourse := true, yield := false, age := 0, overdueAt := none }) ∧
      ∀ k, k ∉ ms → u.m.thread core x.blk k = some (b.thread k)) ∧
    ∀ lead rest cause pos cx, ms = lead :: rest → clauseFault s.feat bc.hdr bc.words = some (cause, pos) → s.hasCtx b.asid cx →
      ∃ (u : State), ∃ cx', ∃ (g : FaultInfo), exec (.clauseEnter core islot) s = .next u ∧ (u.m.core core).course islot = none ∧ u.hasCtx b.asid cx' ∧ cx'.waiting = cx.waiting ++ [g] ∧
        g.cause = cause ∧ g.slot = lead ∧ g.addr = x.addr ∧ g.word = (match pos with | some p => bc.words.getD p 0 | none => bc.hdr) ∧
        g.info0 = (match pos with | some p => BitVec.ofNat 32 p | none => 0xFFFFFFFF)

/-- R48, R49, R105: for a thread that stands ready at a clause the core does not hold, a legal header and the words after it that can be fetched enter the instruction buffer
with the clause's read-set; words that the buffer's lines or L1 hold are fetched so; a header that breaks R63 has its thread take "illegal clause" (for which thread, and that the header is judged before its words are fetched: the model's reading, log entry 18). R58: an eligible thread whose age has reached FAIRWIN becomes overdue. -/
def Obligations.ClausesAreFetched : Prop :=
  (∀ (s : State) (core blk slot : Nat) (b : Block) (hdr : DWord) (m1 : Dev), s.m.block core blk = some b → standsReady b (b.thread slot) = true → s.m.live b.asid = true →
    (s.m.core core).clause b.asid (b.thread slot).pc = none → s.m.fetchSuspended core b.asid (b.thread slot).pc = false →
    (fetchDWord s.feat core b.asid (b.fetchCharge core slot (b.thread slot).pc 0) (b.thread slot).pc.toNat).go s.m = (.ok hdr, m1) →
    (∀ ws m2, headerBad hdr = false →
      (fetchWords s.feat core b.asid (b.fetchCharge core slot (b.thread slot).pc hdr) (b.thread slot).pc.toNat (headerOf hdr).count).go m1 = (.ok ws, m2) →
      ∃ (u : State), exec (.clauseFetch core blk slot) s = .next u ∧ u.m.mem = m2.mem ∧
        (u.m.core core).ibuf = (m2.core core).ibuf ++ [{ asid := b.asid, addr := (b.thread slot).pc, hdr := hdr, words := ws, reads := readSet hdr ws }]) ∧
    ∀ x, m1.ctx b.asid = some x → headerBad hdr = true → ∃ (u : State) (x' : Context) (g : FaultInfo), exec (.clauseFetch core blk slot) s = .next u ∧ u.hasCtx b.asid x' ∧ x'.waiting = x.waiting ++ [g] ∧
      g.cause = 0x12 ∧ g.addr = (b.thread slot).pc ∧ g.word = hdr ∧ g.info0 = 0xFFFFFFFF ∧ (u.m.core core).ibuf = (m1.core core).ibuf) ∧
    (∀ (s : State) (core blk slot : Nat) (b : Block) (hdr : DWord), s.m.block core blk = some b → standsReady b (b.thread slot) = true → s.m.live b.asid = true →
      (s.m.core core).clause b.asid (b.thread slot).pc = none → s.m.fetchSuspended core b.asid (b.thread slot).pc = false →
      let pc := (b.thread slot).pc
      let at_ (i : Nat) (w : DWord) : Prop := (s.m.core core).bufWord b.asid (pc.toNat + 8 * i) = some w ∨
        ((s.m.core core).bufWord b.asid (pc.toNat + 8 * i) = none ∧ s.m.reads s.feat core b.asid (pc.toNat + 8 * i) .fetch (toBytes 8 w.toNat))
      at_ 0 hdr →
      (∀ ws : List DWord, headerBad hdr = false → ws.length = (headerOf hdr).count → (∀ i, i < ws.length → at_ (i + 1) (ws.getD i 0)) →
        ∃ (u : State), exec (.clauseFetch core blk slot) s = .next u ∧ u.m.mem = s.m.mem ∧
          (u.m.core core).ibuf = (s.m.core core).ibuf ++ [{ asid := b.asid, addr := pc, hdr := hdr, words := ws, reads := readSet hdr ws }]) ∧
      ∀ x, s.hasCtx b.asid x → headerBad hdr = true → ∃ (u : State) (x' : Context) (g : FaultInfo), exec (.clauseFetch core blk slot) s = .next u ∧ u.hasCtx b.asid x' ∧ x'.waiting = x.waiting ++ [g] ∧
        g.cause = 0x12 ∧ g.addr = pc ∧ g.word = hdr ∧ g.info0 = 0xFFFFFFFF ∧ (u.m.core core).ibuf = (s.m.core core).ibuf) ∧
    ∀ (s : State) (core blk slot : Nat) (b : Block), s.m.block core blk = some b → (s.m.core core).eligible b (b.thread slot) = true →
      b.rec_.nofair = false → b.rec_.fairwin ≤ (b.thread slot).age → (b.thread slot).overdueAt = none →
      ∃ (u : State), exec (.threadOverdue core blk slot) s = .next u ∧ u.m.thread core blk slot = some { b.thread slot with overdueAt := some (s.m.core core).cyc.toNat }

/-- R74, R76, R77: the value of a pending write goes to its registers, but for those that a later write has overtaken; every other register keeps its value, and the registers
are no longer pending by it. Here no agent outside owns a line of the image that the value is to follow.

R54: at the end of the cycle in which its timeout has reached 0 a SIGN of a resident block withdraws its signature; the signer leaves its wait with status 1. -/
def Obligations.ResultsArriveAndTimeoutsWithdraw : Prop :=
  (∀ (s : State) (core blk slot id : Nat) (t : Thread) (p : Pending) (v : List Word), s.m.thread core blk slot = some t → (t.pend.find? fun q => q.id == id) = some p →
    p.val = some v → v.length = p.dst.length → p.dst.Nodup → s.m.recordsWait (s.m.followRun core blk slot) = false →
    ∃ (u : State) (t' : Thread), exec (.pendingWriteArrive core blk slot id) s = .next u ∧ u.m.thread core blk slot = some t' ∧ (∀ q ∈ t'.pend, q.id ≠ id) ∧ t'.pred = t.pred ∧ t'.pc = t.pc ∧
      (∀ i, (i ∉ p.dst ∨ i ∈ p.dead) → t'.reg i = t.reg i) ∧
      ∀ j (h : j < p.dst.length), p.dst[j] ∉ p.dead → t'.reg p.dst[j] = v.getD j 0) ∧
  (∀ (s : State) (core blk slot : Nat) (b : Block), s.m.block core blk = some b → b.bst = .running → (b.thread slot).st = .stitch → (b.thread slot).tmo = some 0 → s.m.cycleOver core = true →
    (∃ p ∈ (b.thread slot).pend, p.id = (b.thread slot).signPend) →
    let k := (b.thread slot).wst
    let d := ((b.thread slot).pend.find? fun p => p.id == (b.thread slot).signPend).elim [] Pending.dst
    ∃ (u : State) (t' : Thread) (b' : Block), exec (.signTimeout core blk slot) s = .next u ∧ u.m.thread core blk slot = some t' ∧ u.m.block core blk = some b' ∧
      (b'.stitch k).count = (b.stitch k).count - 1 ∧ (∀ p ∈ (b'.stitch k).signers, p.1 ≠ slot) ∧ (b'.stitch k).open_ = (b.stitch k).open_ ∧
      (t'.st = .ready ∨ t'.st = .results) ∧ t'.tmo = none ∧ t'.sgn.getLsbD k = false ∧
      ∀ r, d = [r] → (∀ p ∈ (b.thread slot).pend, r ∉ p.dead) → t'.reg r = 1)

/-- R415, R430, R431: WAITM parks its member in STATE 2 with its location and comparand, here while an earlier skein word of its thread holds its read back (R415 says so of SKMAP; that SKFLUSH and
SKQUERY do too is the model's reading, DEDUCED, log entry 31). A parked thread whose read is due goes on where the
value differs from the comparand; where it does not, the location is watched, or polled again after 1,024 fabric cycles while the watch table is full: so does a WAITM whose page is
translated and at rest in its own step, and so does each later wake and poll. -/
def Obligations.WaitsForMemory : Prop :=
  (∀ (s : State) (c : Ctl) (f : MEM) (e : Env) (t : Thread), s.runs c e t → vaBad (memVa e f t) = false → (memVa e f t).toNat % tySize f.ty = 0 →
    (∃ a ∈ (s.m.core e.cu.core).accs, a.blk = e.cu.blk ∧ a.slot = e.cu.slot ∧ a.id < s.m.nextId ∧ a.kind.skein = true) →
    ∃ (u : State) (t' : Thread), ∃ w, exec (.waitm c f) s = .next u ∧ u.threadOf e = some t' ∧ t'.st = .memWatch ∧ t'.pc = nextClause e.cu.addr e.cu.hdr ∧ t'.inCourse = false ∧ t'.regs = t.regs ∧
      onlyThread s u e.cu.core e.cu.blk e.cu.slot ∧ t'.watch = some w ∧ w.va = memVa e f t ∧ w.n = tySize f.ty ∧ w.cmp = t.bytesAt f.data.toNat (tySize f.ty)) ∧
    (let after (s u : State) (core blk slot : Nat) (t : Thread) (w : WatchWait) (pg : Page) (pc : DWord) : Prop :=
      ∃ t', u.m.thread core blk slot = some t' ∧ t'.regs = t.regs ∧ t'.pc = pc ∧ t'.inCourse = false ∧ s.m.shows u.m 0 [] ∧
        (ofBytes (s.m.homeBytes 0 pg.loc w.n) ≠ w.cmp → t'.watch = none ∧ (t'.st = .ready ∨ t'.st = .results)) ∧
        (ofBytes (s.m.homeBytes 0 pg.loc w.n) = w.cmp → t'.st = .memWatch ∧ t'.watch = some { w with
          woken := false, at_ := if s.m.watchFull then none else some pg.loc, poll := if s.m.watchFull then some 1024 else none })
    (∀ (s : State) (c : Ctl) (f : MEM) (e : Env) (t : Thread) (pg : Page), s.runs c e t → vaBad (memVa e f t) = false → (memVa e f t).toNat % tySize f.ty = 0 → s.quiet e t →
      e.blk.bst ≠ .stopped → (s.m.core e.cu.core).skeins = [] → s.m.suspended e.blk.asid (.watch e.cu.core e.cu.blk e.cu.slot) = false → (s.m.core e.cu.core).requests < 1024 →
      s.m.mapped s.feat e.cu.core e.blk.asid (memVa e f t).toNat .read pg → pg.simple → s.m.atRest pg.loc (tySize f.ty) →
      ∃ (u : State), ∃ w, exec (.waitm c f) s = .next u ∧ w.va = memVa e f t ∧ w.n = tySize f.ty ∧ w.cmp = t.bytesAt f.data.toNat (tySize f.ty) ∧
        after s u e.cu.core e.cu.blk e.cu.slot t w pg (nextClause e.cu.addr e.cu.hdr)) ∧
    ∀ (s : State) (core blk slot : Nat) (b : Block) (w : WatchWait) (pg : Page), s.m.block core blk = some b → (b.thread slot).watch = some w →
      (b.thread slot).st = .memWatch → (b.thread slot).inCourse = false → b.bst ≠ .stopped → s.m.suspended b.asid (.watch core blk slot) = false → (s.m.core core).accs = [] →
      (b.thread slot).acq = [] → (s.m.core core).skeins = [] → (s.m.core core).requests < 1024 → w.va.toNat < 2 ^ 57 →
      s.m.mapped s.feat core b.asid w.va.toNat .read pg → pg.simple → s.m.atRest pg.loc w.n →
      ∀ i, (i = Instr.waitmWake core blk slot ∧ w.woken = true) ∨ (i = Instr.waitmPoll core blk slot ∧ w.poll = some 0) →
        ∃ (u : State), exec i s = .next u ∧ after s u core blk slot (b.thread slot) w pg (b.thread slot).pc) ∧
    ∀ (s : State) (core blk slot : Nat) (b : Block) (w : WatchWait) (v loc : Nat) (m1 : Dev) (b1 : Block), s.m.block core blk = some b → (b.thread slot).watch = some w →
      (b.thread slot).st = .memWatch → b.bst ≠ .stopped → s.m.suspended b.asid (.watch core blk slot) = false →
      (s.m.core core).gate (w.access b.asid blk slot s.m.nextId) ((b.thread slot).acquired s.m.nextId) = true →
      (watchRead s.feat (threadAgent b.asid { (w.access b.asid blk slot s.m.nextId).charge core with op := blk }) core b.asid w.va.toNat w.n).go s.m = (.ok (v, loc), m1) →
      m1.block core blk = some b1 →
      ∀ i, (i = Instr.waitmWake core blk slot ∧ w.woken = true) ∨ (i = Instr.waitmPoll core blk slot ∧ w.poll = some 0) →
        ∃ (u : State) (t' : Thread), exec i s = .next u ∧ u.m.thread core blk slot = some t' ∧ t'.regs = (b1.thread slot).regs ∧ t'.pc = (b1.thread slot).pc ∧
          (v ≠ w.cmp → t'.watch = none ∧ (t'.st = .ready ∨ t'.st = .results)) ∧
          (v = w.cmp → t'.st = (b1.thread slot).st ∧ ∃ w', t'.watch = some w' ∧ w'.woken = false ∧ w'.cmp = w.cmp ∧
            (w'.at_, w'.poll) = if m1.watchFull then (none, some 1024) else (some loc, none))

/-- R227, R248: once an entry of its queue is free and no operation issued before it waits, the first word held for a thread enters the queue, at its end; a held SEAL closes its batch once
fewer than 255 batches are unfinished. -/
def Obligations.HeldWordsAreAccepted : Prop :=
  ∀ (s : State) (core blk slot : Nat) (b : Block), s.m.block core blk = some b → s.m.live b.asid = true → b.bst = .running → (∀ k, k < 16 → (b.stitch k).backlog = []) →
    let c := s.m.core core
    let t := b.thread slot
    let took (u : State) : Prop := exec (.queueWordAccept core blk slot) s = .next u ∧ u.m.mem = s.m.mem ∧
      ∃ t', u.m.thread core blk slot = some t' ∧ t'.held = t.held.drop 1 ∧ t'.regs = t.regs ∧
        (t.st = .results → t.pend = [] → t.held.length = 1 → t.waitB = none → t'.st = .ready)
    (∀ o r, t.held = .mat o :: r → c.matQ.length < 128 → c.turnFor .mat o.org.id = true → ∃ (u : State), took u ∧ (u.m.core core).matQ = c.matQ ++ [o]) ∧
    (∀ o r, t.held = .sweep o :: r → c.sweepQ.length < 64 → c.turnFor .sweep o.org.id = true → ∃ (u : State), took u ∧ (u.m.core core).sweepQ = c.sweepQ ++ [o]) ∧
    (∀ o r, t.held = .ply o :: r → c.plyQ.length < 64 → c.turnFor .ply o.org.id = true → ∃ (u : State), took u ∧ (u.m.core core).plyQ = c.plyQ ++ [o]) ∧
    (∀ o r, t.held = .xfer o :: r → c.xferQ.length < 256 → c.turnFor .xfer o.org.id = true → ∃ (u : State), took u ∧ (u.m.core core).xferQ = c.xferQ ++ [{ o with entry := s.m.nextId }]) ∧
    ∀ p l r, t.held = .seal p l :: r → t.batches.length < 255 → ∃ (u : State) (t' : Thread), took u ∧ u.m.thread core blk slot = some t' ∧ t'.nextBatch = t.nextBatch + 1

/-- R226, R227, R233, R235, R239: the oldest matrix operation that passes the checks starts once the accesses before it are performed, or acts at once for ACCZERO and ACCFREE; one that
fails a check takes its fault; a k-block whose time has passed and whose reads succeed is added, here in particular a dense unscaled one whose operands the core reads, to every element of its
tile; ACCRD writes every row of its tile to the window; the oldest request for tiles is met where enough physical tiles are free. -/
def Obligations.MatrixUnitRuns : Prop :=
  (∀ (s : State) (core : Nat) (o : MatOp) (q : List MatOp) (b : Block), (s.m.core core).matQ = o :: q → (s.m.core core).matRun = none → s.m.block core o.org.blk = some b →
    s.m.live b.asid = true → (s.m.core core).accsDone o.org.blk o.org.after = true →
    (∀ f x, o.check b = some f → s.hasCtx b.asid x → ∃ (u : State) (x' : Context) (g : FaultInfo), exec (.matrixOpStart core) s = .next u ∧ u.hasCtx b.asid x' ∧ x'.waiting = x.waiting ++ [g] ∧ g.cause = f.cause ∧
      g.field = f.field ∧ g.engine = .matrix ∧ g.slot = o.org.slot ∧ g.addr = o.org.addr ∧ g.word = o.org.word ∧ (u.m.core core).tiles = (s.m.core core).tiles) ∧
    (o.check b = none → ∃ (u : State), exec (.matrixOpStart core) s = .next u ∧ (u.m.core core).matQ = q ∧ u.m.mem = s.m.mem ∧
      ((o.kind = .mma ∨ o.kind = .mmas ∨ o.kind = .rd) → (u.m.core core).matRun = some { op := o, j := 0, left := o.cycles b, written := 0 }) ∧
      (∀ p, b.tile o.tile = some p → (o.kind = .zero ∨ (o.zf = true ∧ (o.kind = .mma ∨ o.kind = .mmas))) → ∀ i, (u.m.core core).tileElem p i = 0) ∧
      (o.kind = .free → ∀ p, b.tile o.tile = some p → p ∈ List.range 96 → ∃ b', u.m.block core o.org.blk = some b' ∧ b'.nameFree o.tile = true ∧ p ∈ (u.m.core core).freePhys))) ∧
    (∀ (s : State) (core : Nat) (r : MatRun) (b : Block) (m1 : Dev), (s.m.core core).matRun = some r → s.m.block core r.op.org.blk = some b → r.left = 0 →
      s.m.live b.asid = true → s.m.suspended b.asid (.matrix core r.op.org.id) = false → (matStep s.feat core b r).go s.m = (.ok (), m1) →
      ∃ (u : State), exec (.matrixKblockComplete core) s = .next u ∧ (u.m.core core).tiles = (m1.core core).tiles ∧ u.m.mem = m1.mem ∧ (u.m.core core).stash = (m1.core core).stash ∧
        (u.m.core core).matRun = r.next b) ∧
    (∀ (s : State) (core p : Nat) (r : MatRun) (b : Block), (s.m.core core).matRun = some r → s.m.block core r.op.org.blk = some b → r.left = 0 →
      s.m.live b.asid = true → s.m.suspended b.asid (.matrix core r.op.org.id) = false → (s.m.core core).skeins = [] → s.m.poisoned = [] → b.tile r.op.tile = some p →
      (∀ f, r.op.kind = .mma →
        let side (x : MatSide) : Prop := x.slot.scale = false ∧ ∀ i, i < 64 →
          s.m.sees s.feat core b.asid f (x.base + i * x.stride + r.j * (32 * x.slot.fmt.bits / 8)) (32 * x.slot.fmt.bits / 8)
        let row (x : MatSide) (i : Nat) : List FVal := (unpackWords x.slot.fmt.bits 32 (ofBytes ((List.range (32 * x.slot.fmt.bits / 8)).map fun k =>
          f (x.base + i * x.stride + r.j * (32 * x.slot.fmt.bits / 8) + k)))).map (decodeFormat x.slot)
        side (r.op.sideA b) → side (r.op.sideB b) → ∃ (u : State), exec (.matrixKblockComplete core) s = .next u ∧ u.m.mem = s.m.mem ∧ (u.m.core core).stash = (s.m.core core).stash ∧
          (u.m.core core).matRun = r.next b ∧ ∀ i j, i < 64 → j < 64 → (u.m.core core).tileElem p (64 * i + j) =
            addBlock ((s.m.core core).tileElem p (64 * i + j)) (blockSum ((row (r.op.sideA b) i).zip (row (r.op.sideB b) j)))) ∧
      (r.op.kind = .rd → r.written = 0 → r.op.off.toNat % 64 = 0 →
        let f := b.slot r.op.aslot
        let len := 64 * f.fmt.bits / 8
        let x := b.winBase + r.op.off.toNat
        r.op.off.toNat + 64 * len ≤ b.winSize → ∃ (u : State), exec (.matrixKblockComplete core) s = .next u ∧ u.m.mem = s.m.mem ∧ (u.m.core core).matRun = none ∧
          ∀ a, mget 0 (u.m.core core).stash a = if x ≤ a ∧ a < x + 64 * len then
            (packBytes f.fmt.bits ((List.range 64).map fun j => encodeFormat f (f32 ((s.m.core core).tileElem p (64 * ((a - x) / len) + j))))).getD ((a - x) % len) 0
            else mget 0 (s.m.core core).stash a)) ∧
    ∀ (s : State) (core : Nat) (o : Block) (w : AccWait), s.m.oldestWait core = some (o, w) → s.m.block core w.blk = some o →
      w.n ≤ (s.m.core core).freePhys.length →
      ∃ (u : State) (b' : Block) (t' : Thread), exec (.accGrant core) s = .next u ∧ u.m.block core w.blk = some b' ∧ u.m.thread core w.blk w.slot = some t' ∧
        (∀ i, i < w.n → ∃ p ∈ (s.m.core core).freePhys, mget none b'.tiles (w.first + i) = some (.bound p)) ∧
        t' = (o.thread w.slot).obtain w.pend [BitVec.ofNat 32 (w.first + 256 * w.n)] ∧ ∀ x ∈ (u.m.core core).accWaits, x.id ≠ w.id

/-- R424, R427, R161: the next sweep operation, of a block on its core or one that has exited, starts once the accesses before it are performed, and frees its entry; an iteration whose reads and writes succeed has its whole effect, and
with the last one the operation is complete; on a core without skeins every iteration goes through, and one of VCOPY copies its 64 bytes of the stash and changes no other byte. -/
def Obligations.SweepUnitRuns : Prop :=
  (∀ (s : State) (core : Nat) (o : SweepOp) (b : Block), (s.m.core core).sweepRun = none → (s.m.core core).sweepNext = some o → (s.m.core core).block o.org.blk = some b →
    s.m.live b.asid = true → (b.bst = .running ∨ b.bst = .exited) → (s.m.core core).accsDone o.org.blk o.org.after = true →
    ∃ (u : State), exec (.sweepOpStart core) s = .next u ∧ (u.m.core core).sweepRun = some o ∧ (∀ x ∈ (u.m.core core).sweepQ, x.org.id ≠ o.org.id) ∧ u.m.mem = s.m.mem ∧
      (u.m.core core).stash = (s.m.core core).stash) ∧
    ∀ (s : State) (core : Nat) (o : SweepOp) (b : Block), (s.m.core core).sweepRun = some o → s.m.block core o.org.blk = some b → s.m.live b.asid = true →
      s.m.suspended b.asid (.sweep core o.org.id) = false →
      (∀ x m1, (sweepIter s.feat core b o).go s.m = (.ok x, m1) → ∃ (u : State), exec (.sweepIteration core) s = .next u ∧ (u.m.core core).stash = (m1.core core).stash ∧ u.m.mem = m1.mem ∧
        (u.m.core core).sweepRun = if x.total ≤ x.iter then none else some x) ∧
      ((s.m.core core).skeins = [] → s.m.poisoned = [] → ∃ (u : State), exec (.sweepIteration core) s = .next u ∧ u.m.mem = s.m.mem ∧
        (o.total ≤ o.iter + 1 → (u.m.core core).sweepRun = none) ∧
        (o.iter + 1 < o.total → ∃ x, (u.m.core core).sweepRun = some x ∧ x.iter = o.iter + 1 ∧ x.org = o.org ∧ x.kind = o.kind ∧ x.n = o.n ∧ x.out = [])) ∧
      ∀ a d, o.kind = .copy → o.out = [] → o.spans b (if o.n = 0 then 0 else o.iter % o.n) = [(a, 64), (d, 64)] → (s.m.core core).skeins = [] → s.m.poisoned = [] →
        ∃ (u : State), exec (.sweepIteration core) s = .next u ∧ u.m.mem = s.m.mem ∧ ∀ x, mget 0 (u.m.core core).stash x =
          if b.winBase + d.toNat ≤ x ∧ x < b.winBase + d.toNat + 64 then mget 0 (s.m.core core).stash (b.winBase + a.toNat + (x - (b.winBase + d.toNat)))
          else mget 0 (s.m.core core).stash x

/-- R265 to R268, R270, R273, R276, R277: the next ply operation that passes the checks reaches execution once the accesses before it are performed: PLYFREE frees its name, PLYKEEP marks a
Valid map kept, the others, with a physical map where they need one, occupy the unit once they have touched their operands, and complete with their whole effect: on a core without skeins PLYMATCH
binds its name to the map of its rows, and PLYSPLIT writes each row where its token went; an operation that stands aside obtains a physical map when one can be had. Here no block of the core has a map in
its kept-map area; a PLYFREE of a Saved name clears the name's bit of KEPT in the image. -/
def Obligations.PlyUnitRuns : Prop :=
  (∀ (s : State) (core : Nat) (o : PlyOp) (b : Block), (s.m.core core).plyRun = none → (s.m.core core).plyNext = some o → (s.m.core core).block o.org.blk = some b →
    s.m.live b.asid = true → (s.m.core core).accsDone o.org.blk o.org.after = true → s.m.suspended b.asid (.ply core o.org.id) = false → o.check (s.m.core core) b = none →
    s.m.plyLost s.feat b o = false → s.m.unsaved core →
    let left (u : State) : Prop := ∀ x ∈ (u.m.core core).plyLine, x.org.id ≠ o.org.id
    (o.kind = .free → ∃ (u : State) (b' : Block), exec (.plyOpStart core) s = .next u ∧ u.m.block core o.org.blk = some b' ∧ b'.ply o.map = .free ∧ (u.m.core core).plyRun = none ∧ left u) ∧
    (∀ p q, o.kind = .keep → b.ply o.map = .valid p q → ∃ (u : State) (b' : Block), exec (.plyOpStart core) s = .next u ∧ u.m.block core o.org.blk = some b' ∧ b'.ply o.map = .valid p true ∧
      (u.m.core core).plyRun = none ∧ left u) ∧
    ((o.kind = .match_ ∧ (o.got.isSome ∨ ∃ p q, b.ply o.map = .valid p q)) ∨ ((o.kind = .merge ∨ o.kind = .split) ∧ b.ply o.map ≠ .saved ∧ o.got = none) →
      let m2 := s.m.modCore core fun x => { x.plyTake o with plyRun := some o }
      let z := o.size (s.m.core core) b
      (∀ m3, (plyTouch s.feat (engineAgent b.asid (o.charge core)) core b (o.inputs z.1 z.2) (o.outputs z.1 z.2)).go m2 = (.ok (), m3) → m3.unsaved core →
        exec (.plyOpStart core) s = .next (s.withDev m3)) ∧
      ((s.m.core core).skeins = [] → exec (.plyOpStart core) s = .next (s.withDev m2)))) ∧
    (∀ (s : State) (core : Nat) (o : PlyOp) (b : Block), (s.m.core core).plyRun = some o → s.m.block core o.org.blk = some b → s.m.live b.asid = true →
      s.m.suspended b.asid (.ply core o.org.id) = false → s.m.unsaved core →
      (∀ m1, (plyRunOp s.feat core b o).go s.m = (.ok (), m1) → m1.unsaved core → ∃ (u : State), exec (.plyOpComplete core) s = .next u ∧ (u.m.core core).plyRun = none ∧
        (u.m.core core).stash = (m1.core core).stash ∧ (u.m.core core).plyStore = (m1.core core).plyStore ∧ (u.m.core core).blocks = (m1.core core).blocks ∧ u.m.mem = m1.mem) ∧
      ((s.m.core core).skeins = [] → s.m.poisoned = [] →
        let c := s.m.core core
        let rows (n : Nat) : List (List Nat) := plyRows (mreadBytes c.stash (b.winBase + o.a.toNat) (n * (o.width * plyE o.ty))) n o.width o.ty
        (∃ (u : State), exec (.plyOpComplete core) s = .next u ∧ (u.m.core core).plyRun = none ∧ u.m.mem = s.m.mem) ∧
        (∀ q, o.kind = .match_ → o.target b = some q → ∃ (u : State) (b' : Block), exec (.plyOpComplete core) s = .next u ∧ u.m.block core o.org.blk = some b' ∧
          b'.ply o.map = .valid q b.rec_.plykeep ∧ (u.m.core core).stash = c.stash ∧
          mget none (u.m.core core).plyStore q = some (plyMatchMap ((rows o.b.toNat).map fun l => normalise (l.map (plyVal o.ty))) o.d.toNat)) ∧
        (o.kind = .split →
          let p := c.plyMap b o.map
          let l := (List.range p.n).flatMap fun i => packBytes (8 * plyE o.ty) ((rows (p.n - p.r)).getD (p.dest.getD i 0) [])
          ∃ (u : State), exec (.plyOpComplete core) s = .next u ∧ ∀ a, mget 0 (u.m.core core).stash a =
            if b.winBase + o.d.toNat ≤ a ∧ a < b.winBase + o.d.toNat + l.length then l.getD (a - (b.winBase + o.d.toNat)) 0 else mget 0 c.stash a))) ∧
    (∀ (s : State) (core : Nat) (o : PlyOp) (b : Block) (x : Context), (s.m.core core).plyRun = none → (s.m.core core).plyNext = some o → (s.m.core core).block o.org.blk = some b →
      s.hasCtx b.asid x → s.m.live b.asid = true → (s.m.core core).accsDone o.org.blk o.org.after = true → s.m.suspended b.asid (.ply core o.org.id) = false →
      ((s.m.core core).blocks.map (·.id)).Nodup → s.m.bare → s.m.alone → s.m.recordCause s.feat (x.imageAt b.image) = none →
      o.kind = .free → o.map < 8 → b.ply o.map = .saved → ∃ (u : State) (b' : Block), exec (.plyOpStart core) s = .next u ∧ u.m.block core o.org.blk = some b' ∧ b'.ply o.map = .free ∧
        b'.kept = b.kept - 2 ^ o.map ∧ u.m.getRecord (x.imageAt b.image + 0x30) 8 = b'.kept) ∧
    ∀ (s : State) (core blk : Nat) (o : PlyOp) (b : Block) (p : Nat) (m1 : Dev), ((s.m.core core).plyLine.find? fun x => x.org.blk == blk && x.obtains) = some o →
      (s.m.core core).block blk = some b → s.m.live b.asid = true → s.m.mapTurn core b = true → s.m.obtainMap core b = some (p, m1) →
      ((s.m.bare ∧ s.m.alone) ∨ (s.m.unsaved core ∧ (s.m.core core).freeMaps ≠ [])) →
      ∃ (u : State), exec (.plyMapObtain core blk) s = .next u ∧ (s.m.unsaved core → (s.m.core core).freeMaps ≠ [] → u.m.mem = s.m.mem) ∧
        ∀ x ∈ (u.m.core core).plyLine, x.org.id = o.org.id → x.obtains = false ∧ x.got = some p

/-- R245 to R247: the copy engine takes the transfer queue's next entry once the accesses before it are performed and its record passes the checks, and its chunks are then left to do; a chunk whose
reads and writes succeed is done, and with the last one the copy is complete: so with a record that the core reads, and with a chunk that lies in the window on both sides, whose elements move one
after the other. Where the bytes read and written overlap R247 leaves each value open, and the order in which the elements move is the model's choice (log entry 124).

R245, R246, R255, R256: the comet path takes a comet read whose record passes the checks, with all of its bursts to request; the next burst of the read whose turn it is is requested where
an entry of the landing buffer and a request are free; a burst whose bytes are read lands; the burst that landed first starts a comet thread in the lowest free slot of the reserve. -/
def Obligations.CopiesAndCometReadsRun : Prop :=
  ((∀ (s : State) (core : Nat) (o : XferOp) (b : Block) (d : Nat → Nat) (m1 : Dev), (s.m.core core).xferNext = some o → s.m.block core o.org.blk = some b → o.comet = false →
    o.kn = none → s.m.live b.asid = true → (s.m.core core).accessesDone o.org.blk o.org.after = true → s.m.suspended b.asid (.xfer core o.org.id) = false →
    (readShape s.feat (engineAgent b.asid (s.m.copyCharge core o.org 0)) core b.asid o.sh.toNat).go s.m = (.ok d, m1) →
    (shapeVerdict s.feat d o.hd false = .go → ∃ (u : State) (r : CopyRun), exec (.copyAccept core) s = .next u ∧ (u.m.core core).copies = (m1.core core).copies ++ [r] ∧ r.org = o.org ∧ r.sh = shapeOf d ∧
      r.hd = o.hd.toNat ∧ r.left = List.range (shapeOf d).chunks ∧ (∀ x ∈ (u.m.core core).xferQ, x.org.id ≠ o.org.id) ∧ u.m.mem = m1.mem) ∧
    ∀ f x, shapeVerdict s.feat d o.hd false = .bad f → m1.ctx b.asid = some x → ∃ (u : State) (x' : Context) (g : FaultInfo), exec (.copyAccept core) s = .next u ∧ u.hasCtx b.asid x' ∧ x'.waiting = x.waiting ++ [g] ∧
      g.cause = f.cause ∧ g.field = f.field ∧ g.engine = .copy ∧ (u.m.core core).copies = (m1.core core).copies) ∧
    (∀ (s : State) (core : Nat) (o : XferOp) (b : Block) (l : List Byte), (s.m.core core).xferNext = some o → s.m.block core o.org.blk = some b → o.comet = false →
      s.m.live b.asid = true → (s.m.core core).accessesDone o.org.blk o.org.after = true → s.m.suspended b.asid (.xfer core o.org.id) = false → (s.m.core core).skeins = [] →
      l.length = 64 → o.sh.toNat % 64 = 0 → s.m.readsBy s.feat core b.asid o.sh.toNat 8 l →
      let d (i : Nat) : Nat := ofBytes ((l.drop (8 * i)).take 8)
      (o.kn = none → shapeVerdict s.feat d o.hd false = .go → ∃ (u : State) (r : CopyRun), exec (.copyAccept core) s = .next u ∧
        (u.m.core core).copies = (s.m.core core).copies ++ [r] ∧ r.org = o.org ∧ r.sh = shapeOf d ∧ r.hd = o.hd.toNat ∧ r.left = List.range (shapeOf d).chunks ∧
        (u.m.core core).xferQ = (s.m.core core).xferQ.filter (fun x => x.org.id != o.org.id) ∧ u.m.mem = s.m.mem) ∧
      ∀ f x, shapeVerdict s.feat d o.hd false = .bad f → s.hasCtx b.asid x → ∃ (u : State) (x' : Context) (g : FaultInfo), exec (.copyAccept core) s = .next u ∧ u.hasCtx b.asid x' ∧
        x'.waiting = x.waiting ++ [g] ∧ g.cause = f.cause ∧ g.field = f.field ∧ g.engine = .copy ∧ (u.m.core core).copies = (s.m.core core).copies) ∧
    ∀ (s : State) (core copy chunk : Nat) (r : CopyRun) (b : Block), ((s.m.core core).copies.find? fun x => x.org.id == copy) = some r →
      s.m.block core r.org.blk = some b → r.left.contains chunk = true → s.m.moving b = true → s.m.suspended b.asid (.chunk core copy chunk) = false →
      s.m.failed b.asid (s.m.copyCharge core r.org chunk) = false → r.kn = none →
      let left (u : State) : Prop := ∀ x ∈ (u.m.core core).copies, x.org.id = copy → r.left.filter (· != chunk) ≠ [] ∧ x.left = r.left.filter (· != chunk)
      (∀ m1, (runChunk s.feat core b r chunk (s.m.copyCharge core r.org chunk)).go s.m = (.ok (), m1) →
        ∃ (u : State), exec (.copyChunkComplete core copy chunk) s = .next u ∧ u.m.mem = m1.mem ∧ (u.m.core core).stash = (m1.core core).stash ∧ left u) ∧
      let h := r.sh
      let at_ (p : Nat × Nat × Nat) : Nat := h.tensorAt p.1 (h.oy + p.2.1) p.2.2
      let move (st : SMap Byte) (p : Nat) : SMap Byte :=
        if h.dir then (match h.pos p with
          | some x => mwriteBytes st (b.winBase + at_ x) (mreadBytes st (b.winBase + (r.hd + p * h.e)) h.e)
          | none => st)
        else mwriteBytes st (b.winBase + (r.hd + p * h.e)) (match h.pos p with
          | some x => mreadBytes st (b.winBase + at_ x) h.e
          | none => List.replicate h.e 0)
      h.mode ≠ 1 → h.mode ≠ 4 → h.tkind = true → h.hkind = true → (s.m.core core).skeins = [] → s.m.poisoned = [] →
      (∀ p ∈ h.chunkElems chunk, r.hd + p * h.e + h.e ≤ b.winSize ∧ ∀ x, h.pos p = some x → at_ x + h.e ≤ b.winSize) →
        ∃ (u : State), exec (.copyChunkComplete core copy chunk) s = .next u ∧ u.m.mem = s.m.mem ∧ left u ∧
          ∀ a, mget 0 (u.m.core core).stash a = mget 0 ((h.chunkElems chunk).foldl move (s.m.core core).stash) a) ∧
  ((∀ (s : State) (core : Nat) (o : XferOp) (b : Block) (d : Nat → Nat) (m1 : Dev), (s.m.core core).xferNext = some o → s.m.block core o.org.blk = some b → o.comet = true →
    s.m.live b.asid = true → (s.m.core core).accessesDone o.org.blk o.org.after = true → s.m.suspended b.asid (.xfer core o.org.id) = false →
    (readShape s.feat (engineAgent b.asid (cometCharge core o.org o.cid 0)) core b.asid o.sh.toNat).go s.m = (.ok d, m1) → shapeVerdict s.feat d o.hd true = .go →
    ∃ (u : State) (r : CometRun), exec (.cometAccept core) s = .next u ∧ (u.m.core core).comets = (m1.core core).comets ++ [r] ∧ r.org = o.org ∧ r.sh = shapeOf d ∧ r.cid = o.cid ∧ r.args = o.args ∧
      r.bursts = (shapeOf d).size / 64 ∧ r.toRequest = List.range r.bursts ∧ r.inFlight = [] ∧ r.landed = [] ∧ ∀ x ∈ (u.m.core core).xferQ, x.org.id ≠ o.org.id) ∧
    (∀ (s : State) (core : Nat) (o : XferOp) (b : Block) (l : List Byte), (s.m.core core).xferNext = some o → s.m.block core o.org.blk = some b → o.comet = true →
      s.m.live b.asid = true → (s.m.core core).accessesDone o.org.blk o.org.after = true → s.m.suspended b.asid (.xfer core o.org.id) = false → (s.m.core core).skeins = [] →
      l.length = 64 → o.sh.toNat % 64 = 0 → s.m.readsBy s.feat core b.asid o.sh.toNat 8 l →
      let d (i : Nat) : Nat := ofBytes ((l.drop (8 * i)).take 8)
      shapeVerdict s.feat d o.hd true = .go → ∃ (u : State) (r : CometRun), exec (.cometAccept core) s = .next u ∧ (u.m.core core).comets = (s.m.core core).comets ++ [r] ∧
        r.org = o.org ∧ r.sh = shapeOf d ∧ r.cid = o.cid ∧ r.args = o.args ∧ r.toRequest = List.range ((shapeOf d).size / 64) ∧ r.inFlight = [] ∧ r.landed = [] ∧
        (u.m.core core).xferQ = (s.m.core core).xferQ.filter (fun x => x.org.id != o.org.id) ∧ u.m.mem = s.m.mem) ∧
    (∀ (s : State) (core x : Nat) (q : List Nat) (r : CometRun) (b : Block), s.m.cometNext core = some r → ((s.m.core core).comets.find? fun y => y.org.id == r.org.id) = some r →
      r.toRequest = x :: q → (s.m.core core).block r.org.blk = some b → (s.m.core core).landing < 1024 → (s.m.core core).requests < 1024 → r.sh.mode ≠ 1 →
      let p := 64 * x / r.sh.e
      let va := r.sh.tensorAt (p % r.sh.tx) (r.sh.oy + p / r.sh.tx % r.sh.ty) (p / r.sh.tx / r.sh.ty)
      va + 63 < 2 ^ 57 → (∀ a ∈ [va, va + 63], ∃ pg, s.m.mapped s.feat core b.asid a .read pg) →
      ∃ (u : State), ∃ ls, exec (.cometBurstRequest core r.org.id) s = .next u ∧ u.m.mem = s.m.mem ∧
        ((u.m.core core).comets.find? fun y => y.org.id == r.org.id) = some { r with toRequest := q, inFlight := r.inFlight ++ [x], leaves := ls }) ∧
    (∀ (s : State) (core comet burst : Nat) (r : CometRun) (b : Block), ((s.m.core core).comets.find? fun r => r.org.id == comet) = some r →
      s.m.block core r.org.blk = some b → r.inFlight.contains burst = true → s.m.moving b = true → b.bst = .running → s.m.suspended b.asid (.burst core comet burst) = false →
      s.m.failed b.asid (cometCharge core r.org r.cid burst) = false →
      let lands (u : State) (m1 : Dev) (l : List Byte) : Prop := exec (.cometBurstLand core comet burst) s = .next u ∧ u.m.mem = m1.mem ∧
        (u.m.core core).comets = (m1.core core).comets.map fun q => if q.org.id = comet then
          { q with inFlight := q.inFlight.filter (· != burst), leaves := q.leaves.filter (fun e => e.1 != burst), landed := q.landed ++ [(burst, m1.nextId, l)], landings := q.landings + 1 }
        else q
      (∀ l m1, (burstRead s.feat core b r burst).go s.m = (.ok l, m1) → ∃ (u : State), lands u m1 l) ∧
      ∀ l, (s.m.core core).skeins = [] → r.sh.mode ≠ 1 → r.sh.elog ≤ 4 → l.length = 64 → (r.leaves.find? fun e => e.1 == burst) = none →
        let p := 64 * burst / r.sh.e
        s.m.readsBy s.feat core b.asid (r.sh.tensorAt (p % r.sh.tx) (r.sh.oy + p / r.sh.tx % r.sh.ty) (p / r.sh.tx / r.sh.ty)) (min r.sh.e 8) l → ∃ (u : State), lands u s.m l) ∧
    ∀ (s : State) (core blk x k : Nat) (b : Block) (r : CometRun) (l : List Byte), s.m.block core blk = some b → s.m.live b.asid = true → b.bst = .running →
      (s.m.core core).firstLanded blk = some (r, x, l) → b.freeReserve = some k →
      ∃ (u : State) (t' : Thread), exec (.cometThreadStart core blk) s = .next u ∧ u.m.thread core blk k = some t' ∧ t' = cometThread r x l ∧ (∀ j, j ≠ k → u.m.thread core blk j = some (b.thread j)) ∧
        u.m.mem = s.m.mem)

/-- R28, R138, R290, R293, R294: the launch whose turn it is has its next block placed on the chosen core, here an empty one: its window is zero and, without launch data, its threads
start at the entry address with the argument pointer in g0 and g1; a placed block whose launch data is applied, here a restart label, starts its threads. -/
def Obligations.BlocksArePlaced : Prop :=
  let begins (u : State) (core : Nat) (b : Block) : Prop := b.started = true ∧ b.bst = .running ∧ ∀ k, k < b.rec_.nthr → ∃ t, u.m.thread core b.id k = some t ∧ t.st = .ready ∧
    t.pc = b.rec_.entry ∧ t.reg 0 = b.rec_.args.extractLsb' 0 32 ∧ t.reg 1 = b.rec_.args.extractLsb' 32 32 ∧ t.pend = [] ∧ ∀ i, 2 ≤ i → t.reg i = 0
  (∀ (s : State) (core : Nat) (l : Launch) (x : Context), core < s.feat.coreCount → (s.m.core core).blocks = [] → (s.m.core core).skeins = [] → (s.m.core core).courses = [] →
    s.m.launchFor s.feat core = some l → s.m.ctx l.asid = some x → l.rec_.window ≤ 1048576 → l.rec_.items = [] →
    s.m.suspended l.asid (.argument core s.m.nextId) = false → s.m.records s.feat (x.stat + 0x100 + 8 * (s.m.freeImage x).getD 0) →
    ∃ (u : State) (b : Block), exec (.blockPlace core) s = .next u ∧ u.m.block core s.m.nextId = some b ∧ begins u core b ∧ b.asid = l.asid ∧ b.launch = l.seq ∧ b.index = l.nextBlock ∧ b.winSize = l.rec_.window ∧
      b.bidx = BitVec.ofNat 32 (l.nextBlock % l.rec_.gx) ∧ b.bidy = BitVec.ofNat 32 (l.nextBlock / l.rec_.gx % l.rec_.gy) ∧
      b.bidz = BitVec.ofNat 32 (l.nextBlock / (l.rec_.gx * l.rec_.gy)) ∧ (∀ i, b.winBase ≤ i → i < b.winBase + b.winSize → mget 0 (u.m.core core).stash i = 0) ∧
      ∀ y ∈ s.m.launches, y.seq = l.seq → ∃ z ∈ u.m.launches, z.seq = y.seq ∧ z.nextBlock = y.nextBlock + 1) ∧
    ∀ (s : State) (core : Nat) (b : Block), core < s.feat.coreCount → s.m.starting core = [b] → s.m.block core b.id = some b →
      (b.todo = [] → ∃ (u : State) (b' : Block), exec (.blockPlace core) s = .next u ∧ u.m.block core b.id = some b' ∧ b'.id = b.id ∧ b'.rec_ = b.rec_ ∧ begins u core b') ∧
      ∀ label mask, b.todo = [.restart label mask] → label.toNat % 8 = 0 → label.toNat < 2 ^ 57 → ∃ (u : State) (b' : Block), exec (.blockPlace core) s = .next u ∧
        u.m.block core b.id = some b' ∧ b'.id = b.id ∧ b'.rec_ = b.rec_ ∧ b'.rstLabel = label ∧ b'.rstMask = mask ∧ begins u core b'

/-- R307, R308, R363: a block that is asked to leave, none of whose courses is inside a clause and that holds no tiles, leaves its core with its threads as they stand; it returns as the die's
first pending block where it fits and its results have landed; bursts that no fault has suspended and that have not landed at the memory bound are dropped and stand among those to be requested
again, and the chunks that have not completed by then are abandoned, still left to do while the block is away; a block that has exited and of which nothing is left ends, and its launch counts it.

R238, R308: a block that is asked to leave while it holds tiles or has matrix operations queued restarts: its matrix operations, its tile names and its call stacks are gone, its ordinary threads
stand ready at the restart label with an empty scoreboard, p0 to p6 false, the registers under the mask as the restart area holds them, and sr.restart has counted; with no restart label it takes
"accumulators revoked" instead. -/
def Obligations.BlocksLeaveAndReturn : Prop :=
  ((∀ (s : State) (core blk : Nat) (b : Block), s.m.block core blk = some b → b.asked = true → b.bst = .running → b.over = false → s.m.live b.asid = true →
    (s.m.core core).inClause blk = false → (s.m.core core).restarts b = false → s.m.inIteration core b = false → (s.m.core core).comets = [] → (∀ p ∈ b.threads, p.2.tmo ≠ some 0) →
    (∀ x, s.hasCtx b.asid x → s.m.records s.feat (x.stat + 0x100 + 8 * b.image)) →
    ∃ (u : State) (b' : Block), exec (.blockPreempt core blk) s = .next u ∧ u.m.block core blk = some b' ∧ b'.bst = .preempted ∧ b'.asked = false ∧ b'.threads = b.threads ∧ b'.restarts = b.restarts ∧
      (u.m.core core).stash = (s.m.core core).stash) ∧
    (∀ (s : State) (core blk : Nat) (b : Block), s.m.block core blk = some b → b.imaged = false → firstPending (s.m.pendingOn s.feat (s.feat.dieOf core)) = some (.away core b) →
      (s.m.die (s.feat.dieOf core)).placing = true → (s.m.core core).residents.length < 16 → b.slotCount ≤ (s.m.core core).freeSlots → s.m.landing core b = false →
      (∀ x, s.hasCtx b.asid x → s.m.records s.feat (x.stat + 0x100 + 8 * b.image)) →
      ∃ (u : State) (b' : Block), exec (.blockResume core blk) s = .next u ∧ u.m.block core blk = some b' ∧ b'.bst = .running ∧
        b'.threads = b.threads.map fun p => (p.1, { p.2 with age := 0, overdueAt := none })) ∧
    (∀ (s : State) (core blk : Nat) (b : Block), s.m.block core blk = some b → b.skid = some 0 → s.m.live b.asid = true → b.bst ≠ .running →
      ∃ (u : State) (b' : Block), exec (.skidBoundExpire core blk) s = .next u ∧ u.m.block core blk = some b' ∧ b' = { b with skid := none } ∧
        (∀ r ∈ (u.m.core core).comets, r.org.blk = blk → ∀ x ∈ r.inFlight, s.m.suspended b.asid (.burst core r.org.id x) = true) ∧
        (∀ r ∈ (s.m.core core).comets, r.org.blk = blk → ∃ r' ∈ (u.m.core core).comets, r'.org = r.org ∧ (∀ x ∈ r.toRequest, x ∈ r'.toRequest) ∧
          ∀ x ∈ r.inFlight, s.m.suspended b.asid (.burst core r.org.id x) = false → x ∈ r'.toRequest) ∧
        (u.m.core core).copies = (s.m.core core).copies ∧
        ∀ copy chunk r, b.bst = .preempted → ((s.m.core core).copies.find? fun x => x.org.id == copy) = some r → r.org.blk = blk →
          exec (.copyChunkComplete core copy chunk) u = .next u) ∧
    ∀ (s : State) (core blk : Nat) (b : Block), s.m.block core blk = some b → b.bst = .exited → s.m.live b.asid = true → (s.m.core core).drained b = true → (s.m.core core).skeins = [] → (∀ x, s.hasCtx b.asid x → s.m.records s.feat (x.stat + 0x100 + 8 * b.image)) →
      ∃ (u : State), exec (.blockEnd core blk) s = .next u ∧ u.m.block core blk = none ∧ u.m.launches = s.m.launches.map fun l => if l.seq = b.launch then { l with ended := l.ended + 1 } else l) ∧
  (∀ (s : State) (core blk : Nat) (b : Block) (x : Context), s.m.block core blk = some b → b.asked = true → b.bst = .running → b.over = false → s.m.live b.asid = true →
    (s.m.core core).inClause blk = false → (s.m.core core).restarts b = true → (s.m.core core).matRun = none → s.m.inIteration core b = false → s.hasCtx b.asid x →
    s.m.records s.feat (x.stat + 0x100 + 8 * b.image) →
    (b.rstLabel ≠ 0 → ∃ (u : State) (b' : Block), exec (.blockPreempt core blk) s = .next u ∧ u.m.block core blk = some b' ∧ b'.bst = .preempted ∧ b'.restarts = b.restarts + 1 ∧ b'.tiles = [] ∧
      b'.rstLabel = b.rstLabel ∧ b'.rstMask = b.rstMask ∧ b'.mkp = 0 ∧ (∀ o ∈ (u.m.core core).matQ, o.org.blk ≠ blk) ∧ (∀ r ∈ (u.m.core core).comets, r.org.blk ≠ blk) ∧
      (∀ k p, mget none b.tiles k = some (.bound p) → p < 96 → mget none (s.m.core core).tileUse p = some (blk, k) → p ∈ (u.m.core core).freePhys) ∧
      ∀ k ∈ b.ordinary, ∃ t', u.m.thread core blk k = some t' ∧ t'.st = .ready ∧ t'.pc = b.rstLabel ∧ t'.stack = [] ∧ t'.pend = [] ∧
        (∀ i : Fin 7, t'.pred.getLsbD i = false) ∧ t'.pred.getLsbD 7 = true ∧ ∀ j, j < 64 → b.rstMask.getLsbD j = true → t'.reg j = mget 0 (b.thread k).area j) ∧
    (b.rstLabel = 0 → ∃ (u : State) (x' : Context) (g : FaultInfo), exec (.blockPreempt core blk) s = .next u ∧ u.hasCtx b.asid x' ∧ x'.waiting = x.waiting ++ [g] ∧ g.cause = 0x1B ∧ g.engine = .matrix ∧
      g.core = core ∧ g.addr = b.rec_.entry))

/-- R284 to R288: the walker reads a chain's current node, keeps it where it passes the checks and tests both chains for readiness, or faults with the field code of the check it fails; so with
sixteen doublewords of plain memory.

R285, R286, R288: a started EVENT node completes at once, a HOST node once it has sent its message, an END node ends the main chain, which takes the next queued head: the SET events are set,
and the chain goes to the node's successor; a node that has been read and whose wait events are set starts, and consumes them where CONS says so.

R285, R287: a COND node whose condition word is below NS goes to the successor that the word selects in its table, else to NEXT; a WHILE node goes to NEXT where its word is 0, else the word
is decremented at its home and its body follows; so with plain memory. -/
def Obligations.WalkerRuns : Prop :=
  (∀ (s : State) (asid : Nat) (dev : Bool) (c : Context), s.hasCtx asid c → s.m.walks asid = true →
    let kept (d : List Nat) (a : DWord) (n : Node) (y : Context) : Context := y.setChain dev { chainAt a with kind := some (bitsOf (d.getD 0 0) 60 4), node := some n }
    (∀ (m0 : Dev) (c1 : Context) (a : DWord) (d : List Nat) (m1 : Dev) (c2 : Context), s.m.takeNext asid dev c = some m0 → m0.ctx asid = some c1 → (c1.chain dev).cur = some a →
      (c1.chain dev).node = none → (walkerReads s.feat asid a a.toNat 16).go m0 = (.ok d, m1) → m1.ctx asid = some c2 →
      (∀ n, nodeOf a d dev = .ok n → exec (.nodeRead asid dev) s = .next (s.withDev ((m1.modCtx asid (kept d a n)).testChains asid))) ∧
      ∀ f, nodeOf a d dev = .error f → ∃ (u : State) (c' : Context) (g : FaultInfo), exec (.nodeRead asid dev) s = .next u ∧ u.hasCtx asid c' ∧ c'.waiting = c2.waiting ++ [g] ∧ g.cause = 0x15 ∧ g.field = f ∧
        g.engine = .walker ∧ g.addr = a) ∧
    ∀ (a : DWord) (d : List Nat), (c.chain dev).cur = some a → (c.chain dev).node = none → d.length = 16 → (∀ i, i < 16 → s.m.walkerSees s.feat asid (a.toNat + 8 * i) (d.getD i 0)) →
      (∀ n, nodeOf a d dev = .ok n → ∃ (u : State), exec (.nodeRead asid dev) s = .next u ∧ u.hasCtx asid (kept d a n c).testChains ∧ u.m.mem = s.m.mem ∧ u.m.cores = s.m.cores) ∧
      ∀ f, nodeOf a d dev = .error f → ∃ (u : State) (c' : Context) (g : FaultInfo), exec (.nodeRead asid dev) s = .next u ∧ u.hasCtx asid c' ∧ c'.waiting = c.waiting ++ [g] ∧ g.cause = 0x15 ∧ g.field = f ∧
        g.engine = .walker ∧ g.addr = a ∧ (c'.chain dev).node = none ∧ u.m.mem = s.m.mem ∧ u.m.cores = s.m.cores) ∧
  ((∀ (s : State) (asid : Nat) (dev : Bool) (n : Node) (c : Context), s.hasCtx asid c →
    let after (c' : Context) : Prop := (c.still → c'.events = c.events ||| n.set) ∧ c'.tagged = c.tagged ∧ c'.waiting = c.waiting
    (s.m.startable asid dev .event = some n → ∃ (u : State) (c' : Context), exec (.nodeEvent asid dev) s = .next u ∧ u.hasCtx asid c' ∧ after c' ∧ u.m.mem = s.m.mem ∧ u.m.mgmt = s.m.mgmt ∧
      (dev = false → n.next ≠ 0 → c'.main = chainAt (BitVec.ofNat 64 n.next))) ∧
    (s.m.startable asid dev .host = some n → ∃ (u : State) (c' : Context), exec (.nodeHost asid dev) s = .next u ∧ u.hasCtx asid c' ∧ after c' ∧
      u.m.mgmt.msi = s.m.mgmt.msi ++ [(bitsOf n.param 11 1, bitsOf n.param 0 11)]) ∧
    (s.m.startable asid false .end_ = some n → ∃ (u : State) (c' : Context), exec (.nodeEnd asid) s = .next u ∧ u.hasCtx asid c' ∧ after c' ∧ c'.main.cur = c.heads.head? ∧ c'.main.node = none ∧
      c'.heads = c.heads.tail ∧ c'.st = if c.heads = [] then .idle else .running)) ∧
  ∀ (c : Context) (dev : Bool) (n : Node), (c.chain dev).node = some n → (c.chain dev).started = false → n.wait &&& ~~~c.events = 0 → (∀ b, b ≠ dev → (c.chain b).node = none) →
    c.testChains.events = (if n.cons then c.events &&& ~~~n.wait else c.events) ∧ (c.testChains.chain dev).started = true ∧ (c.testChains.chain dev).node = some n) ∧
  ((∀ (s : State) (asid v : Nat) (n : Node) (m1 : Dev),
    (s.m.startable asid false .cond = some n → (walkerRead s.feat asid n.addr n.opa).go s.m = (.ok v, m1) →
      (n.param % 16 ≤ v → exec (.nodeCond asid) s = .next (s.withDev (m1.nodeEnds asid false n n.next))) ∧
      ∀ e m2, v < n.param % 16 → (walkerRead s.feat asid n.addr (n.opb + 8 * v)).go m1 = (.ok e, m2) → e % 128 = 0 → e < 2 ^ 57 →
        exec (.nodeCond asid) s = .next (s.withDev (m2.nodeEnds asid false n e))) ∧
    (s.m.startable asid false .while_ = some n → (walkerRead s.feat asid n.addr n.opa).go s.m = (.ok v, m1) →
      (v = 0 → exec (.nodeWhile asid) s = .next (s.withDev (m1.nodeEnds asid false n n.next))) ∧
      ∀ pg old m2 m3, v ≠ 0 → (walkerPage s.feat asid n.opa .both).go m1 = (.ok pg, m2) →
        (homeAccess s.feat (walkerAgent asid (walkerCharge n.addr)) pg (BitVec.ofNat 64 n.opa) 8 (.rmw fun o => if o = 0 then none else some (o - 1))).go m2 = (.ok old, m3) →
        exec (.nodeWhile asid) s = .next (s.withDev (m3.nodeEnds asid false n n.opb)))) ∧
  ∀ (s : State) (asid v : Nat) (n : Node),
    let goes (i : Instr) (succ : Nat) (m1 : Dev) : Prop := exec i s = .next (s.withDev (m1.nodeEnds asid false n succ)) ∧ m1.ctxs = s.m.ctxs ∧ m1.cores = s.m.cores
    (s.m.startable asid false .cond = some n → s.m.walkerSees s.feat asid n.opa v →
      (n.param % 16 ≤ v → ∃ m1, goes (.nodeCond asid) n.next m1 ∧ m1.mem = s.m.mem) ∧
      ∀ e, v < n.param % 16 → s.m.walkerSees s.feat asid (n.opb + 8 * v) e → e % 128 = 0 → e < 2 ^ 57 → ∃ m1, goes (.nodeCond asid) e m1 ∧ m1.mem = s.m.mem) ∧
    (s.m.startable asid false .while_ = some n → s.m.walkerSees s.feat asid n.opa v →
      (v = 0 → ∃ m1, goes (.nodeWhile asid) n.next m1 ∧ m1.mem = s.m.mem) ∧
      ∀ pg, v ≠ 0 → s.m.walkerAt s.feat asid n.opa .both pg → s.m.watching = false → ∃ m1, goes (.nodeWhile asid) n.opb m1 ∧ s.m.wrote m1 pg.loc (toBytes 8 (v - 1))))

/-- R286, R288, R291, R282: a started KERNEL node whose record passes the checks begins a launch with the next sequence number, its priority capped, so with a record in plain memory, or faults with
the code of the check that it fails; once every block of the grid has ended, and no write-back data of its cores is on its way, the launch is gone, its SET events are set and a chain that waited for it moves on; the mirror in the status area takes
the event vector's value. -/
def Obligations.LaunchesBeginAndFinish : Prop :=
  let begins (m1 : Dev) (c : Context) (asid : Nat) (dev : Bool) (n : Node) (r : LaunchRec) (u : State) : Prop :=
    let l : Launch := { seq := m1.nextLaunch, asid := asid, set := n.set, dev := dev, async := n.async, rec_ := r, prio := min r.prio c.pcap, nextBlock := 0, ended := 0, cores := [] }
    let c' := c.setChain dev { c.chain dev with begun := true }
    u.m.launches = m1.launches ++ [l] ∧ u.m.nextLaunch = (m1.nextLaunch + 1) % 2 ^ 64 ∧ u.hasCtx asid (if n.async then c'.advance dev n.next else c')
  (∀ (s : State) (asid : Nat) (dev : Bool) (n : Node), s.m.startable asid dev .kernel = some n →
    (∀ (r : LaunchRec) (m1 : Dev) (c : Context), (readRecord s.feat asid n).go s.m = (.ok r, m1) → m1.ctx asid = some c →
      ∃ (u : State), exec (.nodeKernelStart asid dev) s = .next u ∧ begins m1 c asid dev n r u) ∧
    ∀ (d : List Nat) (c : Context), s.hasCtx asid c → d.length = 32 → (∀ i, i < 32 → s.m.walkerSees s.feat asid (n.opa + 8 * i) (d.getD i 0)) →
      let w (i : Nat) : Nat := d.getD i 0
      (recordBad w (recordOf w n.opa) = none → bitsOf (w 2) 0 57 = 0 →
        ∃ (u : State), exec (.nodeKernelStart asid dev) s = .next u ∧ begins s.m c asid dev n (recordOf w n.opa) u ∧ u.m.mem = s.m.mem ∧ u.m.cores = s.m.cores) ∧
      ∀ f, recordBad w (recordOf w n.opa) = some f → ∃ (u : State) (c' : Context) (g : FaultInfo), exec (.nodeKernelStart asid dev) s = .next u ∧ u.hasCtx asid c' ∧ c'.waiting = c.waiting ++ [g] ∧
        g.cause = 0x15 ∧ g.field = f ∧ g.engine = .walker ∧ g.addr = n.addr ∧ u.m.launches = s.m.launches) ∧
    (∀ (s : State) (asid launch : Nat) (l : Launch) (c : Context), (s.m.launches.find? fun x => x.seq == launch && x.asid == asid) = some l → l.rec_.blocks ≤ l.ended →
      s.m.live asid = true → (∀ i ∈ l.cores, (s.m.core i).writingBack asid = false) → s.hasCtx asid c → ∃ (u : State) (c' : Context), exec (.gridFinish asid launch) s = .next u ∧ u.hasCtx asid c' ∧ (∀ x ∈ u.m.launches, x.seq ≠ launch) ∧
        (c.still → c'.events = c.events ||| l.set) ∧ (s.m.bare → u.m.mem = s.m.mem) ∧
        ∀ n, l.async = false → l.dev = false → c.main.node = some n → n.next ≠ 0 → c'.main = chainAt (BitVec.ofNat 64 n.next)) ∧
    ∀ (s : State) (asid : Nat) (c : Context), s.hasCtx asid c → c.events ≠ c.mirror → (∀ i, i < 32 → s.m.isLocal (c.stat + i) = true) →
      (∀ p ∈ s.m.l2, ∀ y, p.2 = some y → y.key = 0) → s.m.records s.feat c.stat →
      ∃ (u : State), exec (.eventMirrorWrite asid) s = .next u ∧ u.hasCtx asid { c with mirror := c.events } ∧ s.m.wrote u.m c.stat (toBytes 32 c.events.toNat)

/-- R74, R151, R180, R198, R199, R345, R353: a request at the home of coherent, uncompressed memory at rest, first made or retried, is performed: a load returns the bytes and changes none; a store
replaces its bytes and no other; an atomic returns the old bytes and replaces them where it writes; a load or store of 16 bytes performs one 8-byte half, and the second completes it (that the half performed first is the low one is the model's choice, log entry 100). Refused, a
request waits its backoff. -/
def Obligations.RequestsAreServed : Prop :=
  ∀ (s : State) (core : Nat) (a : Access) (e : TlbEntry) (i : Instr), (s.m.core core).access a.id = some a → s.m.suspended a.asid (.access core a.id) = false → a.leaf = some e →
    (i = Instr.homeRequest core a.id ∧ a.phase = .home) ∨ (i = Instr.requestRetry core a.id ∧ a.phase = .refused 0) →
    let p := a.part
    let pg := e.leaf.pageOf a.asid p.va.toNat
    (s.m.atRest pg.loc p.n → pg.simple →
      let old := Memory.read s.m.mem pg.loc p.n
      let whole : List Byte := if p.n = a.n then old else toBytes 8 (a.half.getD 0) ++ old
      let gone (u : State) : Prop := exec i s = .next u ∧ (u.m.core core).accs = (s.m.core core).accs.filter fun x => x.id != a.id
      let got (u : State) : Prop := ∀ t, s.m.thread core a.blk a.slot = some t → ∃ t', u.m.thread core a.blk a.slot = some t' ∧ t'.regs = t.regs ∧
        t'.pend = (t.obtain a.id (loadWords (BitVec.ofNat 4 a.ty) a.n (ofBytes whole))).pend
      (p.n = a.n ∨ a.half.isSome = true →
        (a.kind = .load → ∃ (u : State), gone u ∧ u.m.mem = s.m.mem ∧ got u) ∧
        (a.kind = .store → ∃ (u : State), gone u ∧ s.m.wrote u.m pg.loc (toBytes p.n p.v)) ∧
        (a.kind.atomic = true → ∃ (u : State), gone u ∧ got u ∧ match atomicNew a.kind (a.ty == 6 || a.ty == 7) a.n (ofBytes old) a.v a.cmp with
          | some v => s.m.wrote u.m pg.loc (toBytes a.n v)
          | none => u.m.mem = s.m.mem)) ∧
      (p.n ≠ a.n → a.half = none →
        (a.kind = .load → ∃ (u : State), exec i s = .next u ∧ u.m.mem = s.m.mem ∧ (u.m.core core).access a.id = some { a with phase := .home, half := some (ofBytes old) }) ∧
        (a.kind = .store → ∃ (u : State), exec i s = .next u ∧ s.m.wrote u.m pg.loc (toBytes p.n p.v) ∧
          (u.m.core core).access a.id = some { a with phase := .home, half := some 0 }))) ∧
    (s.m.changesGrain pg (a.kind != .load || (pg.cached && a.hint != 3)) = true → s.m.refuses (a.requester core) pg = true → ∃ (u : State), exec i s = .next u ∧ u.m.mem = s.m.mem ∧
      (u.m.core core).access a.id = some { a with phase := .refused (backoff (a.refusals + 1)), refusals := a.refusals + 1 })

/-- R168, R172, R298, R313: for an access that waits for a walk and has one of its die's 64, a leaf that passes the checks enters the core's translation cache and the access is tried again; a walk
that fails, or whose leaf fails a check, raises the fault of R172's first row that holds, with the access's address, and a not-present or a migrating page leaves the access to be replayed.

R147, R152, R154, R296, R327: on a core without outstanding accesses, with no outside request waiting, a filling segment becomes Clean with the words' current bytes, or Unfilled where a port or link of its
words has failed or a word of it reads as poisoned; write-back data reaches its home, and a retiring segment is Unfilled again. -/
def Obligations.WalksAndSegments : Prop :=
  (∀ (s : State) (core : Nat) (a : Access), (s.m.core core).access a.id = some a → a.phase = .walk → s.m.suspended a.asid (.access core a.id) = false →
    s.m.walkTurn s.feat core a = true → s.m.alone →
    (∀ l pg, s.m.walk s.feat a.asid a.va.toNat = .ok l → s.m.checkLeaf s.feat l a.asid a.va.toNat a.need = .ok pg →
      exec (.translationWalk core a.id) s =
        .next (s.withDev (((s.m.modCore core fun x => x.tlbAdd a.asid l).modAcc core a.id fun x => { x with phase := .new }).tryAccess s.feat core a.id))) ∧
    ∀ c x, (s.m.walk s.feat a.asid a.va.toNat = .error c ∨ ∃ l, s.m.walk s.feat a.asid a.va.toNat = .ok l ∧ s.m.checkLeaf s.feat l a.asid a.va.toNat a.need = .error c) → s.hasCtx a.asid x → a.stash = false → ∃ (u : State) (x' : Context) (g : FaultInfo), exec (.translationWalk core a.id) s = .next u ∧ u.hasCtx a.asid x' ∧
      x'.waiting = x.waiting ++ [g] ∧ g.cause = c ∧ g.va = a.va ∧ g.addr = a.addr ∧ g.word = a.word ∧ g.info0 = BitVec.ofNat 32 a.pos ∧ g.slot = a.slot ∧ g.core = core ∧ g.wr = a.need.wr ∧
      u.m.mem = s.m.mem ∧ (c < 0x10 → x'.halt = x.halt ∧ g.susp = some (.access core a.id) ∧ (u.m.core core).access a.id = some a)) ∧
  (∀ (s : State) (core entry seg : Nat) (e : Skein), mget none (s.m.core core).skeins entry = some e → (s.m.core core).accs = [] → s.m.home.outside = [] →
    let g := s.m.seg core entry seg
    let lost (w : SkWord) : Bool := s.m.fillSpoilt core w
    (g.st = .filling → (∀ w ∈ g.words, lost w = false) → ∃ (u : State), exec (.segmentFillComplete core entry seg) s = .next u ∧ u.m.mem = s.m.mem ∧ (u.m.seg core entry seg).st = .clean ∧
      (u.m.seg core entry seg).words = g.words ∧ ∀ w, g.words = [w] → w.comp = none → mreadBytes (u.m.core core).stash w.at_ 4 = s.m.hierBytes core w) ∧
    (g.st = .filling → (∃ w ∈ g.words, lost w = true) → ∃ (u : State), exec (.segmentFillComplete core entry seg) s = .next u ∧ u.m.mem = s.m.mem ∧ u.m.seg core entry seg = unfilledSeg ∧
      (u.m.core core).stash = (s.m.core core).stash) ∧
    ∀ n w bytes, g.wb = some (n, [(w, bytes)]) → e.leaving = false → w.comp = none → w.key = 0 → (∀ i, i < bytes.length → s.m.isLocal (w.pa + i) = true) →
      (∀ p ∈ s.m.l2, ∀ y, p.2 = some y → y.key = 0) →
      ∃ (u : State), exec (.segmentWriteBackDone core entry seg) s = .next u ∧ s.m.wrote u.m w.pa bytes ∧ (u.m.seg core entry seg).wb = none ∧
        (u.m.seg core entry seg).st = (if g.st = .retiring then .unfilled else g.st))

/-- R206, R208, R211, R213, R214: a fence that is the oldest outstanding access of its thread, and that nothing the core has performed at core scope keeps waiting, is performed; one that must wait
notes the moment at which it asked; a read that waits for writers to publish goes to its home once they have, and a core that owes forced publishes owes none afterwards.

R151, R182, R320, R322, R329, R330: a request of a host through a port that is up, or of another pod device, to memory of this device at rest is served: it returns the old bytes, and replaces
its bytes and no other where it writes; after a CXL.mem load or store a host may hold the line, until it answers a snoop, and after a load another pod device may; a pod request for a further device's memory is forwarded, or answered with "link lost" where no route leads there.

R199, R325: an add, exchange or compare-and-swap at a host whose port is up is one AtomicOp there: it returns the old bytes and replaces them where it writes; another atomic first reads, and then
does so with a compare-and-swap that finds the value it read; refused, it takes cause 0x1F. -/
def Obligations.OtherAccessesComplete : Prop :=
  ((∀ (s : State) (core : Nat) (a : Access), (s.m.core core).access a.id = some a → a.phase = .new → a.wideDone = false → (s.m.core core).earlier a = [] →
    (a.kind = .fence → s.m.suspended a.asid (.access core a.id) = false → s.m.acqOf core a = [] → (s.m.core core).flushing a.blk = false → a.stash = false →
      (s.m.core core).workDone a.blk a.slot a.id = true → (∀ x ∈ (s.m.core core).accs, ∀ k, x.early = some k → a.wide.getD s.m.nextId ≤ k) →
      ∃ (u : State), exec (.wideReleaseComplete core a.id) s = .next u ∧ (u.m.core core).accs = (s.m.core core).accs.filter (fun x => x.id != a.id) ∧ u.m.mem = s.m.mem) ∧
    ((s.m.core core).accessesDone a.blk (s.m.acqOf core a) = true → (s.m.core core).wideReady a (s.m.acqOf core a) (a.wide.getD s.m.nextId) = false → ∃ (u : State), exec (.wideReleaseComplete core a.id) s = .next u ∧ u.m.mem = s.m.mem ∧
      (u.m.core core).access a.id = some { a with wide := some (a.wide.getD s.m.nextId) })) ∧
    (∀ (s : State) (core : Nat) (a : Access) (e : TlbEntry), (s.m.core core).access a.id = some a → a.phase = .publish → a.leaf = some e →
      let pg := e.leaf.pageOf a.asid a.part.va.toNat
      let m1 := (s.m.publishers core pg.loc a.part.n).foldl (fun x p => x.publish s.feat p.1 p.2) s.m
      m1.publishers core pg.loc a.part.n = [] → exec (.forcedPublish core a.id) s = .next (s.withDev (m1.modAcc core a.id fun x => { x with phase := .home }))) ∧
    ∀ (s : State) (core id : Nat), (s.m.core core).access id = none → ∃ (u : State), exec (.forcedPublish core id) s = .next u ∧ ∀ p ∈ u.m.home.forced, p.1 ≠ core) ∧
  ((∀ (s : State) (r : AgentRequest) (dev : Nat), s.m.atRest r.pa r.size → s.m.backed s.feat r.pa = true → s.answers → (∀ l, r.op = .store l → l.length ≤ r.size) →
    let old := Memory.read s.m.mem r.pa r.size
    let served (i : Instr) (u : State) : Prop := exec i s = .next u ∧ u.m.mgmt.reply = old ∧ u.m.home.outside = [] ∧
      match (agentHomeOp r.op r.size).new old r.size with
      | some l => s.m.wrote u.m r.pa l
      | none => u.m.mem = s.m.mem
    (s.feat.hostOp r.op = true → (if r.port = 0 then s.m.mgmt.port0 else s.m.mgmt.port1) = .up →
      ∃ (u : State), served (.hostMemRequest r) u ∧ u.m.hostHeld = match r.op with | .load => [r.pa / 512] | .store _ => [r.pa / 512] | _ => []) ∧
    (s.feat.has 5 = true → ∃ (u : State), served (.podRequest dev r) u ∧ u.m.hostHeld = [] ∧ (s.m.podHeld = [] → u.m.podHeld = match r.op with | .load => [(dev, r.pa / 512)] | _ => []))) ∧
    (∀ (s : State) (blk : Nat), s.answers → s.m.snoops.contains blk = true → s.m.home.outside = [] → exec (.hostSnoopResponse blk) s =
      .next (s.withDev { s.m with snoops := s.m.snoops.filter (· != blk), hostHeld := s.m.hostHeld.filter (· != blk) })) ∧
    ∀ (s : State) (r : AgentRequest) (dev : Nat), s.answers → s.feat.has 5 = true → isDevLoc r.pa = true → s.m.isLocal r.pa = false →
      (∀ l, s.m.forwardLink s.feat r.pa = some l → exec (.podRequest dev r) s = .next (s.withDev (s.m.modMgmt fun g => { g with forwarded := g.forwarded ++ [(l, dev, r)] }))) ∧
      (s.m.forwardLink s.feat r.pa = none → exec (.podRequest dev r) s = .next (s.withDev (s.m.modMgmt fun g => { g with linkLost := g.linkLost ++ [(dev, r)] })))) ∧
  (∀ (s : State) (core : Nat) (a : Access) (e : TlbEntry) (old : Option Nat), (s.m.core core).access a.id = some a → a.phase = .atomicOp old → a.leaf = some e → a.kind.atomic = true →
    let pg := e.leaf.pageOf a.asid a.va.toNat
    let cur := ofBytes (Memory.read s.m.mem pg.loc a.n)
    let single := a.kind = .add ∨ a.kind = .exch ∨ a.kind = .cas
    (pg.key = 0 → (s.m.core core).l1 = [] → s.m.l2 = [] → s.m.linkUp s.feat pg.loc = true → isDevLoc pg.loc = false → portOf pg.loc = portOf (pg.loc + a.n) →
      (single ∨ old = some cur → ∃ (u : State), exec (.atomicopCompletion core a.id false) s = .next u ∧ (u.m.core core).accs = (s.m.core core).accs.filter (fun x => x.id != a.id) ∧
        (match atomicNew a.kind (a.ty == 6 || a.ty == 7) a.n cur a.v a.cmp with
          | some v => s.m.wrote u.m pg.loc (toBytes a.n v)
          | none => u.m.mem = s.m.mem) ∧
        ∀ t, s.m.thread core a.blk a.slot = some t → ∃ t', u.m.thread core a.blk a.slot = some t' ∧ t'.regs = t.regs ∧
          t'.pend = (t.obtain a.id (loadWords (BitVec.ofNat 4 a.ty) a.n (ofBytes (toBytes a.n cur)))).pend) ∧
      (¬single → old ≠ some cur → ∃ (u : State), exec (.atomicopCompletion core a.id false) s = .next u ∧ u.m.mem = s.m.mem ∧
        (u.m.core core).access a.id = some { a with phase := .atomicOp (some cur) })) ∧
    ∀ x, s.hasCtx a.asid x → a.stash = false → ∃ (u : State) (x' : Context) (g : FaultInfo), exec (.atomicopCompletion core a.id true) s = .next u ∧ u.hasCtx a.asid x' ∧ x'.waiting = x.waiting ++ [g] ∧ g.cause = 0x1F ∧
      g.nr = true ∧ ((s.m.core core).l1 = [] → u.m.mem = s.m.mem) ∧ (u.m.core core).accs = (s.m.core core).accs.filter (fun x => x.id != a.id))

/-- R303 to R305: the halt of a context whose courses have left their clauses, whose bursts have landed, whose running chunks are over and of whose operations none is in the matrix unit, no header or record that it reads or writes being waited for, ends every engine's skid: nothing of it
is queued or executing on any core, its blocks stand stopped, its tags are free, and its status area holds the stop record of every engine of every core of its partition, the walker's, and the primary
record; then its block images are written with BSTATE 2, the context is halted and the host is told. -/
def Obligations.HaltsComplete : Prop :=
  (∀ (s : State) (asid : Nat) (c : Context) (h : Halt), s.hasCtx asid c → c.halt = some h → h.skidded = false → s.m.inSimtSkid asid = false → s.m.inCometSkid asid = false →
    s.m.inCopySkid asid = false → s.m.inSweepSkid asid = false → (∀ k, (s.m.core k).matRun = none) →
    (∀ i ∈ c.partition s.feat, s.m.headerWaits s.feat i asid = none) → s.m.recordsWait [(c.stat + 0x8100, 0x80), (c.stat + 0x10000, 512 * s.feat.coreCount)] = false →
    ∃ (u : State) (c' : Context), exec (.contextHalt asid) s = .next u ∧ u.hasCtx asid c' ∧ c'.halt = some { h with skidded := true } ∧ c'.tagged = [] ∧ c'.events = c.events ∧
      (c.cut.st = .running → c'.cut.st = .aborted) ∧
      (s.m.watching = false → s.m.bare → s.m.l2 = [] → (∀ i, i < 0x30000 → s.m.isLocal (c.stat + i) = true ∧ s.m.recordCause s.feat (c.stat + i) = none) →
        let holds (off : Nat) (l : List (Nat × Nat × Nat)) : Prop := ∀ f ∈ l, u.m.homeBytes 0 (c.stat + off + f.1) f.2.1 = toBytes f.2.1 f.2.2
        (∀ i ∈ c.partition s.feat, ∀ e, e < 6 → holds (0x10000 + 512 * i + 64 * e) (s.m.stopRecord s.feat h asid i e)) ∧ holds 0x8140 (c.walkerRecord h s.m.freeKind) ∧
        (h.faults.contains h.primary = true → holds 0x8100 (s.m.primaryRecord s.feat c h))) ∧ ∀ k,
        (∀ o ∈ (u.m.core k).matQ, (s.m.core k).ofCtx asid o.org = false) ∧ (∀ o ∈ (u.m.core k).sweepQ, (s.m.core k).ofCtx asid o.org = false) ∧
        (∀ o ∈ (u.m.core k).plyQ, (s.m.core k).ofCtx asid o.org = false) ∧ (∀ o ∈ (u.m.core k).xferQ, (s.m.core k).ofCtx asid o.org = false) ∧
        (∀ r ∈ (u.m.core k).copies, (s.m.core k).ofCtx asid r.org = false) ∧ (∀ r ∈ (u.m.core k).comets, (s.m.core k).ofCtx asid r.org = false) ∧
        ∀ b ∈ (u.m.core k).blocks, b.asid = asid → b.bst ≠ .running ∧ b.bst ≠ .restarting) ∧
    ∀ (s : State) (asid : Nat) (c : Context) (h : Halt), s.hasCtx asid c → c.halt = some h → h.skidded = true → h.done = false → c.st ≠ .destroying →
      s.m.recordsWait ((s.m.blocksOf asid).flatMap fun p => s.m.imageRun p.2) = false →
      ∃ (u : State) (c' : Context), exec (.haltComplete asid) s = .next u ∧ u.hasCtx asid c' ∧ c'.st = .halted ∧ c'.halt = some { h with done := true } ∧ (∀ k, ∀ a ∈ (u.m.core k).accs, a.asid ≠ asid) ∧
        (s.m.bare → c' = { c with st := .halted, halt := some { h with done := true } } ∧
          u.m.mgmt.msi = s.m.mgmt.msi ++ [(s.m.mgmt.intVec.toNat / 2 ^ 27 % 2, s.m.mgmt.intVec.toNat / 2 ^ 16 % 2 ^ 11)]) ∧
        ∀ core b, s.m.blocksOf asid = [(core, b)] → b.imaged = false → s.m.bare → s.m.l2 = [] → s.m.recordCause s.feat (c.imageAt b.image) = none →
          (∀ i, i < 0x1B0000 → s.m.isLocal (c.imageAt b.image + i) = true) →
          ∀ f ∈ headerFields core { b with bst := .stopped }, u.m.homeBytes 0 (c.imageAt b.image + f.1) f.2.1 = toBytes f.2.1 f.2.2

/-- R3, R186, R281, R301, R332: what reset leaves where the spec gives a reset value: no feature accepted and the register unlocked, no context, no request held, the management registers and every
die's memory-control block at their values, sr.cyc 0 on every core (R42). -/
def Obligations.ResetState : Prop :=
  State.reset.feat.acc = 0 ∧ State.reset.feat.lock = false ∧ (∀ a, State.reset.m.ctx a = none) ∧ State.reset.m.heldWrites = [] ∧ State.reset.m.launches = [] ∧
    (∀ k, (State.reset.m.core k).cyc = 0 ∧ (State.reset.m.core k).blocks = []) ∧
    (∀ d, (State.reset.m.die d).refmax = 0x40 ∧ (State.reset.m.die d).aliasf = false ∧ (State.reset.m.die d).hclr = false ∧ (State.reset.m.die d).on = false ∧
      (State.reset.m.die d).kexp = 0 ∧ (State.reset.m.die d).aliasValid = false ∧ (State.reset.m.die d).aliasLost = 0) ∧
    State.reset.m.mgmt.lmem = 0x0FA0 ∧ State.reset.m.mgmt.ttBase = 0 ∧ State.reset.m.mgmt.sdVa = 0 ∧ State.reset.m.mgmt.sdOvf = false ∧ State.reset.m.mgmt.sdDone = 0 ∧
    State.reset.m.mgmt.ctxSel = 0 ∧ State.reset.m.mgmt.ctxResValid = false ∧ State.reset.m.mgmt.intVec = 0 ∧ State.reset.m.mgmt.keyBusy = false ∧
    State.reset.m.mgmt.strandPort = false ∧ State.reset.m.mgmt.strandLinks = false ∧ State.reset.m.mgmt.podSet = false ∧ State.reset.m.mgmt.fwImg = 0 ∧ State.reset.m.mgmt.fwDone = 0 ∧
    State.reset.m.mgmt.fwCode = 0 ∧ (∀ l, (mget Fresh.link State.reset.m.mgmt.links l).st = .down) ∧ featuresOk State.reset

/-- R69, R80 to R88 and the worked words of the entries: each of these words, written out in the spec, decodes in its class to the instruction it stands for. -/
def Obligations.WorkedWordsDecode : Prop :=
  let c : Ctl := { park := false, guard := 7 }
  decodeWord 0 0x0171461C06010000 = .ok (.add c { d := 5, a := 6, b := 7, c := 0, ty := 6, md := 1, imm := 0 }) ∧
    decodeWord 0 0x23728B30DA010000 = .ok (.ffma c { d := 10, a := 11, b := 12, c := 13, ty := 10, md := 1, imm := 0 }) ∧
    decodeWord 0 0x1671461C22000000 = .ok (.sel c { d := 5, a := 6, b := 7, c := 2, ty := 2, md := 0, imm := 0 }) ∧
    decodeWord 0 0x4770000000000007 = .ok (.brk c { d := 0, a := 0, ty := 0, md := 0, imm := 7 }) ∧
    decodeWord 0 0x3072820003600010 = .ok (.ld c { d := 10, base := 2, data := 0, ty := 3, order := 1, scope := 2, hint := 0, offset := 16 }) ∧
    decodeWord 0 0x357102200BF00000 = .ok (.cas128 c { d := 4, base := 2, data := 8, ty := 11, order := 3, scope := 3, hint := 0, offset := 0 }) ∧
    decodeWord 0 0x427000000000000C = .ok (.call c { d := 0, offset := 12 }) ∧
    decodeWord 1 0x1070011051800100 = .ok (.vspc c .i8 { n := 1, d := 4, a := 5, b := 6, sd := 0, sa := 1, sb := 0, sat := 0 }) ∧
    decodeWord 2 0x1470041800000000 = .ok (.rstl c { d := 0, a := 4, b := 6, c := 0, ty := 0, md := 0, imm := 0 }) ∧
    decodeWord 3 0x0070840001810000 = .ok (.copy c { shape := 2, hd := 4, tok := 0, arg := 0, kn := 6, mode := 1 }) ∧
    decodeWord 4 0x007220A30E0A0000 = .ok (.plymatch c { map := 1, d := 4, a := 5, b := 6, c := 7, stitch := 0, sb := 0, ty := 10 }) ∧
    decodeWord 5 0x0B71060000000000 = .ok (.launch c { d := 4, a := 6, b := 0, sel := 0, md := 0, imm := 0 })

/-- A step runs the decoded instruction: with no move listed, the first issue slot with a word to issue runs that word, decoded in its clause's class, for the next member of its course, and
what follows a word follows (R44; that the members of a course take the word one after the other is the model's reading, log entry 16); a move that names an issue slot or a device event runs that
(the list of moves is the model's own, log entry 3). -/
def Obligations.StepRunsTheDecodedInstruction : Prop :=
  (∀ (s : State) (core islot : Nat) (cu : Cursor) (i : Instr), s.m.moves = [] → s.m.firstIssue = some (core, islot) → s.m.issueAt core islot = some (cu, i) →
    decodeWord (headerOf cu.hdr).cls cu.word = .ok i ∧ step s = afterExec cu (exec i (s.withDev { s.m with cur := some cu })) ∧
      ∀ u, exec i (s.withDev { s.m with cur := some cu }) = .next u → step s = .next (u.withDev (u.m.afterWord cu))) ∧
    (∀ (s : State) (core islot : Nat) (r : List Move) (cu : Cursor) (i : Instr), s.m.moves = .issue core islot :: r → s.m.mayIssue core islot = true →
      s.m.issueAt core islot = some (cu, i) → step s = afterExec cu (exec i (s.withDev { s.m with moves := r, cur := some cu }))) ∧
    (∀ (s : State) (i : Instr) (r : List Move), s.m.moves = .event i :: r → step s = exec i (s.withDev { s.m with moves := r })) ∧
    ∀ (s : State), s.m.moves = [] → s.m.firstIssue = none → step s = .next s.goOn

/-- Decoding what an instruction is encoded as gives it back, for every well-formed instruction word with every operand (R69, R108 to R116). -/
def Obligations.DecodeInvertsEncode : Prop :=
  ∀ (i : Instr) (k : Nat) (w : DWord), i.wf = true → encode i = some (k, w) → decodeWord k w = .ok i

/-- Every word that decodes in a class is the encoding of the instruction it decodes to, bit for bit; so no two words stand for one instruction (R69, R108 to R116). -/
def Obligations.EncodeInvertsDecode : Prop :=
  ∀ (k : Nat) (w : DWord) (i : Instr), decodeWord k w = .ok i → encode i = some (k, w) ∧ i.wf = true

/-- R4, over every step of the machine: no step changes the part; no feature that the part does not support is ever accepted; a locked register keeps its features in every step that is not a
device reset. -/
def Obligations.FeaturesAreKept : Prop :=
  ∀ (s t : State), step s = .next t → t.feat.part = s.feat.part ∧ (featuresOk s → featuresOk t) ∧
    (s.feat.lock = true → t.feat = s.feat ∨ ∃ r, s.m.moves = .event .deviceReset :: r ∧ t.feat = { s.feat with acc := 0, lock := false })

/-- R296, R303: every step goes on: a fault of the machine is a next state. The only stop of the model is an instruction word run, by a move, with no course member to run for
(the model's choice, log entry 11). -/
def Obligations.EveryStepGoesOn : Prop :=
  ∀ (s : State), (∀ i r, s.m.moves = .event i :: r → (encode i).isSome → s.member.isSome) → ∃ t, step s = .next t
end

