-- ==== Sys2Proof/Laws/Decode.lean ====
section
/-! SUPPORT. Laws of the encoder: a format's fields, its opcode and common fields, and its reserved bits are read back from the word it
encodes; a word is encoded back from what is read of it. -/

namespace Sys2Proof

/-! ### Bit fields of joined words -/

theorem bits_append_hi {m n : Nat} (x : BitVec m) (y : BitVec n) (lo len : Nat) (h : n ≤ lo) :
    (x ++ y).extractLsb' lo len = x.extractLsb' (lo - n) len := by
  apply BitVec.eq_of_getLsbD_eq
  intro i hi
  simp only [BitVec.getLsbD_extractLsb', BitVec.getLsbD_append, hi, decide_true, Bool.true_and]
  rw [if_neg (by omega), Nat.sub_add_comm h]

theorem bits_append_lo {m n : Nat} (x : BitVec m) (y : BitVec n) (lo len : Nat) (h : lo + len ≤ n) :
    (x ++ y).extractLsb' lo len = y.extractLsb' lo len := by
  apply BitVec.eq_of_getLsbD_eq
  intro i hi
  simp only [BitVec.getLsbD_extractLsb', BitVec.getLsbD_append, hi, decide_true, Bool.true_and]
  rw [if_pos (by omega)]

theorem bits_all {n : Nat} (x : BitVec n) : x.extractLsb' 0 n = x := by
  apply BitVec.eq_of_getLsbD_eq
  intro i hi
  simp [hi]

theorem bits_join {n : Nat} (w : BitVec n) (lo len mid m : Nat) (h : mid = lo + len) :
    w.extractLsb' mid m ++ w.extractLsb' lo len = w.extractLsb' lo (m + len) := by
  subst h
  apply BitVec.eq_of_getLsbD_eq
  intro i hi
  simp only [BitVec.getLsbD_extractLsb', BitVec.getLsbD_append, hi, decide_true, Bool.true_and]
  by_cases hl : i < len
  · simp [hl]
  · rw [if_neg hl]
    have e : lo + len + (i - len) = lo + i := by omega
    simp [e, show i - len < m by omega]

theorem lead_of (w : DWord) : leadBits (ctlOf w) (opcOf w).toNat = bits w 52 12 := by
  have e : BitVec.ofBool (bits w 63 1 == 1) = bits w 63 1 := by
    generalize bits w 63 1 = x
    revert x
    decide
  simp only [leadBits, ctlOf, opcOf, BitVec.ofNat_toNat, BitVec.setWidth_eq]
  rw [e]
  simp only [bits]
  rw [bits_join w 56 7 63 1 rfl, bits_join w 52 4 56 (1 + 7) rfl]

theorem park_ofBool (p : Bool) : (BitVec.ofBool p == (1 : BitVec 1)) = p := by cases p <;> rfl

/-! ### What a format encodes reads back -/

@[simp] theorem ctlOf_enc_RRR (c : Ctl) (op : Nat) (f : RRR) : ctlOf (f.enc c op) = c := by
  simp (disch := decide) only [ctlOf, RRR.enc, leadBits, bits, bits_append_hi, bits_append_lo, Nat.reduceSub, bits_all, park_ofBool]
@[simp] theorem opcOf_enc_RRR (c : Ctl) (op : Nat) (f : RRR) : opcOf (f.enc c op) = BitVec.ofNat 7 op := by
  simp (disch := decide) only [opcOf, RRR.enc, leadBits, bits, bits_append_hi, bits_append_lo, Nat.reduceSub, bits_all]
@[simp] theorem rrrOf_enc (c : Ctl) (op : Nat) (f : RRR) : rrrOf (f.enc c op) = f := by
  simp (disch := decide) only [rrrOf, RRR.enc, leadBits, bits, bits_append_hi, bits_append_lo, Nat.reduceSub, bits_all]
@[simp] theorem ctlOf_enc_RI (c : Ctl) (op : Nat) (f : RI) : ctlOf (f.enc c op) = c := by
  simp (disch := decide) only [ctlOf, RI.enc, leadBits, bits, bits_append_hi, bits_append_lo, Nat.reduceSub, bits_all, park_ofBool]
@[simp] theorem opcOf_enc_RI (c : Ctl) (op : Nat) (f : RI) : opcOf (f.enc c op) = BitVec.ofNat 7 op := by
  simp (disch := decide) only [opcOf, RI.enc, leadBits, bits, bits_append_hi, bits_append_lo, Nat.reduceSub, bits_all]
@[simp] theorem riOf_enc (c : Ctl) (op : Nat) (f : RI) : riOf (f.enc c op) = f := by
  simp (disch := decide) only [riOf, RI.enc, leadBits, bits, bits_append_hi, bits_append_lo, Nat.reduceSub, bits_all]
@[simp] theorem ctlOf_enc_MEM (c : Ctl) (op : Nat) (f : MEM) : ctlOf (f.enc c op) = c := by
  simp (disch := decide) only [ctlOf, MEM.enc, leadBits, bits, bits_append_hi, bits_append_lo, Nat.reduceSub, bits_all, park_ofBool]
@[simp] theorem opcOf_enc_MEM (c : Ctl) (op : Nat) (f : MEM) : opcOf (f.enc c op) = BitVec.ofNat 7 op := by
  simp (disch := decide) only [opcOf, MEM.enc, leadBits, bits, bits_append_hi, bits_append_lo, Nat.reduceSub, bits_all]
@[simp] theorem memOf_enc (c : Ctl) (op : Nat) (f : MEM) : memOf (f.enc c op) = f := by
  simp (disch := decide) only [memOf, MEM.enc, leadBits, bits, bits_append_hi, bits_append_lo, Nat.reduceSub, bits_all]
@[simp] theorem memRsv_enc (c : Ctl) (op : Nat) (f : MEM) : memRsv (f.enc c op) = true := by
  simp (disch := decide) only [memRsv, MEM.enc, leadBits, bits, bits_append_hi, bits_append_lo, Nat.reduceSub, bits_all]
  rfl
@[simp] theorem ctlOf_enc_BR (c : Ctl) (op : Nat) (f : BR) : ctlOf (f.enc c op) = c := by
  simp (disch := decide) only [ctlOf, BR.enc, leadBits, bits, bits_append_hi, bits_append_lo, Nat.reduceSub, bits_all, park_ofBool]
@[simp] theorem opcOf_enc_BR (c : Ctl) (op : Nat) (f : BR) : opcOf (f.enc c op) = BitVec.ofNat 7 op := by
  simp (disch := decide) only [opcOf, BR.enc, leadBits, bits, bits_append_hi, bits_append_lo, Nat.reduceSub, bits_all]
@[simp] theorem brOf_enc (c : Ctl) (op : Nat) (f : BR) : brOf (f.enc c op) = f := by
  simp (disch := decide) only [brOf, BR.enc, leadBits, bits, bits_append_hi, bits_append_lo, Nat.reduceSub, bits_all]
@[simp] theorem brRsv_enc (c : Ctl) (op : Nat) (f : BR) : brRsv (f.enc c op) = true := by
  simp (disch := decide) only [brRsv, BR.enc, leadBits, bits, bits_append_hi, bits_append_lo, Nat.reduceSub, bits_all]
  rfl
@[simp] theorem ctlOf_enc_SW (c : Ctl) (op : Nat) (f : SW) : ctlOf (f.enc c op) = c := by
  simp (disch := decide) only [ctlOf, SW.enc, leadBits, bits, bits_append_hi, bits_append_lo, Nat.reduceSub, bits_all, park_ofBool]
@[simp] theorem opcOf_enc_SW (c : Ctl) (op : Nat) (f : SW) : opcOf (f.enc c op) = BitVec.ofNat 7 op := by
  simp (disch := decide) only [opcOf, SW.enc, leadBits, bits, bits_append_hi, bits_append_lo, Nat.reduceSub, bits_all]
@[simp] theorem swOf_enc (c : Ctl) (op : Nat) (f : SW) : swOf (f.enc c op) = f := by
  simp (disch := decide) only [swOf, SW.enc, leadBits, bits, bits_append_hi, bits_append_lo, Nat.reduceSub, bits_all]
@[simp] theorem ctlOf_enc_MX (c : Ctl) (op : Nat) (f : MX) : ctlOf (f.enc c op) = c := by
  simp (disch := decide) only [ctlOf, MX.enc, leadBits, bits, bits_append_hi, bits_append_lo, Nat.reduceSub, bits_all, park_ofBool]
@[simp] theorem opcOf_enc_MX (c : Ctl) (op : Nat) (f : MX) : opcOf (f.enc c op) = BitVec.ofNat 7 op := by
  simp (disch := decide) only [opcOf, MX.enc, leadBits, bits, bits_append_hi, bits_append_lo, Nat.reduceSub, bits_all]
@[simp] theorem mxOf_enc (c : Ctl) (op : Nat) (f : MX) : mxOf (f.enc c op) = f := by
  simp (disch := decide) only [mxOf, MX.enc, leadBits, bits, bits_append_hi, bits_append_lo, Nat.reduceSub, bits_all]
@[simp] theorem mxRsv_enc (c : Ctl) (op : Nat) (f : MX) : mxRsv (f.enc c op) = true := by
  simp (disch := decide) only [mxRsv, MX.enc, leadBits, bits, bits_append_lo, bits_all]
  rfl
@[simp] theorem ctlOf_enc_TX (c : Ctl) (op : Nat) (f : TX) : ctlOf (f.enc c op) = c := by
  simp (disch := decide) only [ctlOf, TX.enc, leadBits, bits, bits_append_hi, bits_append_lo, Nat.reduceSub, bits_all, park_ofBool]
@[simp] theorem opcOf_enc_TX (c : Ctl) (op : Nat) (f : TX) : opcOf (f.enc c op) = BitVec.ofNat 7 op := by
  simp (disch := decide) only [opcOf, TX.enc, leadBits, bits, bits_append_hi, bits_append_lo, Nat.reduceSub, bits_all]
@[simp] theorem txOf_enc (c : Ctl) (op : Nat) (f : TX) : txOf (f.enc c op) = f := by
  simp (disch := decide) only [txOf, TX.enc, leadBits, bits, bits_append_hi, bits_append_lo, Nat.reduceSub, bits_all]
@[simp] theorem txRsv_enc (c : Ctl) (op : Nat) (f : TX) : txRsv (f.enc c op) = true := by
  simp (disch := decide) only [txRsv, TX.enc, leadBits, bits, bits_append_lo, bits_all]
  rfl
@[simp] theorem ctlOf_enc_PL (c : Ctl) (op : Nat) (f : PL) : ctlOf (f.enc c op) = c := by
  simp (disch := decide) only [ctlOf, PL.enc, leadBits, bits, bits_append_hi, bits_append_lo, Nat.reduceSub, bits_all, park_ofBool]
@[simp] theorem opcOf_enc_PL (c : Ctl) (op : Nat) (f : PL) : opcOf (f.enc c op) = BitVec.ofNat 7 op := by
  simp (disch := decide) only [opcOf, PL.enc, leadBits, bits, bits_append_hi, bits_append_lo, Nat.reduceSub, bits_all]
@[simp] theorem plOf_enc (c : Ctl) (op : Nat) (f : PL) : plOf (f.enc c op) = f := by
  simp (disch := decide) only [plOf, PL.enc, leadBits, bits, bits_append_hi, bits_append_lo, Nat.reduceSub, bits_all]
@[simp] theorem plRsv_enc (c : Ctl) (op : Nat) (f : PL) : plRsv (f.enc c op) = true := by
  simp (disch := decide) only [plRsv, PL.enc, leadBits, bits, bits_append_lo, bits_all]
  rfl
@[simp] theorem ctlOf_enc_SY (c : Ctl) (op : Nat) (f : SY) : ctlOf (f.enc c op) = c := by
  simp (disch := decide) only [ctlOf, SY.enc, leadBits, bits, bits_append_hi, bits_append_lo, Nat.reduceSub, bits_all, park_ofBool]
@[simp] theorem opcOf_enc_SY (c : Ctl) (op : Nat) (f : SY) : opcOf (f.enc c op) = BitVec.ofNat 7 op := by
  simp (disch := decide) only [opcOf, SY.enc, leadBits, bits, bits_append_hi, bits_append_lo, Nat.reduceSub, bits_all]
@[simp] theorem syOf_enc (c : Ctl) (op : Nat) (f : SY) : syOf (f.enc c op) = f := by
  simp (disch := decide) only [syOf, SY.enc, leadBits, bits, bits_append_hi, bits_append_lo, Nat.reduceSub, bits_all]

/-! ### What is read of a word encodes it -/

theorem enc_rrrOf (w : DWord) : (rrrOf w).enc (ctlOf w) (opcOf w).toNat = w := by
  simp only [RRR.enc, lead_of, rrrOf]
  simp only [bits]
  rw [bits_join w 46 6 52 (12) rfl,
    bits_join w 40 6 46 (12 + 6) rfl,
    bits_join w 34 6 40 (12 + 6 + 6) rfl,
    bits_join w 28 6 34 (12 + 6 + 6 + 6) rfl,
    bits_join w 24 4 28 (12 + 6 + 6 + 6 + 6) rfl,
    bits_join w 16 8 24 (12 + 6 + 6 + 6 + 6 + 4) rfl,
    bits_join w 0 16 16 (12 + 6 + 6 + 6 + 6 + 4 + 8) rfl]
  exact bits_all w
theorem enc_riOf (w : DWord) : (riOf w).enc (ctlOf w) (opcOf w).toNat = w := by
  simp only [RI.enc, lead_of, riOf]
  simp only [bits]
  rw [bits_join w 46 6 52 (12) rfl,
    bits_join w 40 6 46 (12 + 6) rfl,
    bits_join w 36 4 40 (12 + 6 + 6) rfl,
    bits_join w 32 4 36 (12 + 6 + 6 + 4) rfl,
    bits_join w 0 32 32 (12 + 6 + 6 + 4 + 4) rfl]
  exact bits_all w
theorem enc_memOf (w : DWord) (h : memRsv w = true) : (memOf w).enc (ctlOf w) (opcOf w).toNat = w := by
  have z : (0 : BitVec 6) = bits w 28 6 := by simpa [memRsv] using (beq_iff_eq.mp h).symm
  simp only [MEM.enc, lead_of, memOf, z]
  simp only [bits]
  rw [bits_join w 46 6 52 (12) rfl,
    bits_join w 40 6 46 (12 + 6) rfl,
    bits_join w 34 6 40 (12 + 6 + 6) rfl,
    bits_join w 28 6 34 (12 + 6 + 6 + 6) rfl,
    bits_join w 24 4 28 (12 + 6 + 6 + 6 + 6) rfl,
    bits_join w 22 2 24 (12 + 6 + 6 + 6 + 6 + 4) rfl,
    bits_join w 20 2 22 (12 + 6 + 6 + 6 + 6 + 4 + 2) rfl,
    bits_join w 16 4 20 (12 + 6 + 6 + 6 + 6 + 4 + 2 + 2) rfl,
    bits_join w 0 16 16 (12 + 6 + 6 + 6 + 6 + 4 + 2 + 2 + 4) rfl]
  exact bits_all w
theorem enc_brOf (w : DWord) (h : brRsv w = true) : (brOf w).enc (ctlOf w) (opcOf w).toNat = w := by
  have z : (0 : BitVec 14) = bits w 32 14 := by simpa [brRsv] using (beq_iff_eq.mp h).symm
  simp only [BR.enc, lead_of, brOf, z]
  simp only [bits]
  rw [bits_join w 46 6 52 (12) rfl,
    bits_join w 32 14 46 (12 + 6) rfl,
    bits_join w 0 32 32 (12 + 6 + 14) rfl]
  exact bits_all w
theorem enc_swOf (w : DWord) : (swOf w).enc (ctlOf w) (opcOf w).toNat = w := by
  simp only [SW.enc, lead_of, swOf]
  simp only [bits]
  rw [bits_join w 40 12 52 (12) rfl,
    bits_join w 34 6 40 (12 + 12) rfl,
    bits_join w 28 6 34 (12 + 12 + 6) rfl,
    bits_join w 22 6 28 (12 + 12 + 6 + 6) rfl,
    bits_join w 15 7 22 (12 + 12 + 6 + 6 + 6) rfl,
    bits_join w 8 7 15 (12 + 12 + 6 + 6 + 6 + 7) rfl,
    bits_join w 1 7 8 (12 + 12 + 6 + 6 + 6 + 7 + 7) rfl,
    bits_join w 0 1 1 (12 + 12 + 6 + 6 + 6 + 7 + 7 + 7) rfl]
  exact bits_all w
theorem enc_mxOf (w : DWord) (h : mxRsv w = true) : (mxOf w).enc (ctlOf w) (opcOf w).toNat = w := by
  have z : (0 : BitVec 13) = bits w 0 13 := by simpa [mxRsv] using (beq_iff_eq.mp h).symm
  simp only [MX.enc, lead_of, mxOf, z]
  simp only [bits]
  rw [bits_join w 45 7 52 (12) rfl,
    bits_join w 41 4 45 (12 + 7) rfl,
    bits_join w 37 4 41 (12 + 7 + 4) rfl,
    bits_join w 31 6 37 (12 + 7 + 4 + 4) rfl,
    bits_join w 28 3 31 (12 + 7 + 4 + 4 + 6) rfl,
    bits_join w 25 3 28 (12 + 7 + 4 + 4 + 6 + 3) rfl,
    bits_join w 21 4 25 (12 + 7 + 4 + 4 + 6 + 3 + 3) rfl,
    bits_join w 20 1 21 (12 + 7 + 4 + 4 + 6 + 3 + 3 + 4) rfl,
    bits_join w 19 1 20 (12 + 7 + 4 + 4 + 6 + 3 + 3 + 4 + 1) rfl,
    bits_join w 13 6 19 (12 + 7 + 4 + 4 + 6 + 3 + 3 + 4 + 1 + 1) rfl,
    bits_join w 0 13 13 (12 + 7 + 4 + 4 + 6 + 3 + 3 + 4 + 1 + 1 + 6) rfl]
  exact bits_all w
theorem enc_txOf (w : DWord) (h : txRsv w = true) : (txOf w).enc (ctlOf w) (opcOf w).toNat = w := by
  have z : (0 : BitVec 16) = bits w 0 16 := by simpa [txRsv] using (beq_iff_eq.mp h).symm
  simp only [TX.enc, lead_of, txOf, z]
  simp only [bits]
  rw [bits_join w 46 6 52 (12) rfl,
    bits_join w 40 6 46 (12 + 6) rfl,
    bits_join w 34 6 40 (12 + 6 + 6) rfl,
    bits_join w 28 6 34 (12 + 6 + 6 + 6) rfl,
    bits_join w 22 6 28 (12 + 6 + 6 + 6 + 6) rfl,
    bits_join w 16 6 22 (12 + 6 + 6 + 6 + 6 + 6) rfl,
    bits_join w 0 16 16 (12 + 6 + 6 + 6 + 6 + 6 + 6) rfl]
  exact bits_all w
theorem enc_plOf (w : DWord) (h : plRsv w = true) : (plOf w).enc (ctlOf w) (opcOf w).toNat = w := by
  have z : (0 : BitVec 16) = bits w 0 16 := by simpa [plRsv] using (beq_iff_eq.mp h).symm
  simp only [PL.enc, lead_of, plOf, z]
  simp only [bits]
  rw [bits_join w 49 3 52 (12) rfl,
    bits_join w 43 6 49 (12 + 3) rfl,
    bits_join w 37 6 43 (12 + 3 + 6) rfl,
    bits_join w 31 6 37 (12 + 3 + 6 + 6) rfl,
    bits_join w 25 6 31 (12 + 3 + 6 + 6 + 6) rfl,
    bits_join w 21 4 25 (12 + 3 + 6 + 6 + 6 + 6) rfl,
    bits_join w 20 1 21 (12 + 3 + 6 + 6 + 6 + 6 + 4) rfl,
    bits_join w 16 4 20 (12 + 3 + 6 + 6 + 6 + 6 + 4 + 1) rfl,
    bits_join w 0 16 16 (12 + 3 + 6 + 6 + 6 + 6 + 4 + 1 + 4) rfl]
  exact bits_all w
theorem enc_syOf (w : DWord) : (syOf w).enc (ctlOf w) (opcOf w).toNat = w := by
  simp only [SY.enc, lead_of, syOf]
  simp only [bits]
  rw [bits_join w 46 6 52 (12) rfl,
    bits_join w 40 6 46 (12 + 6) rfl,
    bits_join w 34 6 40 (12 + 6 + 6) rfl,
    bits_join w 24 10 34 (12 + 6 + 6 + 6) rfl,
    bits_join w 16 8 24 (12 + 6 + 6 + 6 + 10) rfl,
    bits_join w 0 16 16 (12 + 6 + 6 + 6 + 10 + 8) rfl]
  exact bits_all w

end Sys2Proof
end

