-- ==== Sys2Proof/Laws/Maps.lean ====
section
/-! SUPPORT. Sparse maps and memory: reading after writing, and that every operation keeps the canonical form. -/

namespace Sys2Proof.Machine

open Sys2Proof

variable {α : Type}

/-! ### Reading after writing -/

theorem mget_minsert_same (d : α) (m : SMap α) (i : Nat) (v : α) : mget d (minsert m i v) i = v := by
  induction m with
  | nil => simp [minsert, mget]
  | cons e r ih =>
    obtain ⟨k, w⟩ := e
    simp only [minsert]
    split
    · simp [mget]
    · split
      · simp [mget]
      · rename_i h
        simp only [mget, if_neg (Ne.symm h)]
        exact ih

theorem mget_minsert_ne (d : α) (m : SMap α) (i j : Nat) (v : α) (h : j ≠ i) : mget d (minsert m i v) j = mget d m j := by
  induction m with
  | nil => simp [minsert, mget, Ne.symm h]
  | cons e r ih =>
    obtain ⟨k, w⟩ := e
    simp only [minsert]
    split
    · simp [mget, Ne.symm h]
    · split
      · rename_i hk; subst hk; simp [mget, Ne.symm h]
      · simp only [mget, ih]

theorem mget_merase_same (d : α) (m : SMap α) (i : Nat) : mget d (merase m i) i = d := by
  induction m with
  | nil => rfl
  | cons e r ih =>
    obtain ⟨k, w⟩ := e
    simp only [merase]
    split
    · exact ih
    · rename_i h; simp only [mget, if_neg h]; exact ih

theorem mget_merase_ne (d : α) (m : SMap α) (i j : Nat) (h : j ≠ i) : mget d (merase m i) j = mget d m j := by
  induction m with
  | nil => rfl
  | cons e r ih =>
    obtain ⟨k, w⟩ := e
    simp only [merase]
    split
    · rename_i hk; subst hk; simp only [mget, if_neg (Ne.symm h)]; exact ih
    · simp only [mget, ih]

/-- A key reads as what was written to it. -/
@[simp] theorem mget_mput_same [DecidableEq α] (d : α) (m : SMap α) (i : Nat) (v : α) : mget d (mput d m i v) i = v := by
  unfold mput
  split
  · rename_i h; rw [h, mget_merase_same]
  · exact mget_minsert_same d m i v

/-- A write leaves every other key alone. -/
@[simp] theorem mget_mput_ne [DecidableEq α] (d : α) (m : SMap α) (i j : Nat) (v : α) (h : j ≠ i) : mget d (mput d m i v) j = mget d m j := by
  unfold mput
  split
  · exact mget_merase_ne d m i j h
  · exact mget_minsert_ne d m i j v h

/-- A key outside a cleared range reads as before. -/
theorem mget_mclear_out (d : α) (m : SMap α) (lo n j : Nat) (h : ¬(lo ≤ j ∧ j < lo + n)) : mget d (mclear m lo n) j = mget d m j := by
  induction m with
  | nil => rfl
  | cons e r ih =>
    obtain ⟨k, w⟩ := e
    unfold mclear at ih ⊢
    simp only [List.filter_cons]
    split
    · simp only [mget, ih]
    · rename_i hk
      have hkj : k ≠ j := by
        rintro rfl
        simp at hk
        exact h ⟨hk.1, hk.2⟩
      simp only [mget, if_neg hkj]
      exact ih

/-- A key of a cleared range reads as the default. -/
theorem mget_mclear_in (d : α) (m : SMap α) (lo n j : Nat) (h : lo ≤ j ∧ j < lo + n) : mget d (mclear m lo n) j = d := by
  induction m with
  | nil => rfl
  | cons e r ih =>
    obtain ⟨k, w⟩ := e
    unfold mclear at ih ⊢
    simp only [List.filter_cons]
    split
    · rename_i hk
      have hkj : k ≠ j := by
        rintro rfl
        simp at hk
        omega
      simp only [mget, if_neg hkj]
      exact ih
    · exact ih

/-! ### Canonical form -/

/-- A bound on the keys may be lowered. -/
theorem mcanon_mono [DecidableEq α] (d : α) (m : SMap α) (lo lo' : Nat) (h : lo' ≤ lo) (hm : mcanon d lo m = true) : mcanon d lo' m = true := by
  cases m with
  | nil => rfl
  | cons e r =>
    obtain ⟨k, w⟩ := e
    simp only [mcanon, Bool.and_eq_true, decide_eq_true_eq] at hm ⊢
    exact ⟨⟨by omega, hm.1.2⟩, hm.2⟩

theorem mcanon_minsert [DecidableEq α] (d : α) (m : SMap α) (lo i : Nat) (v : α) (hi : lo ≤ i) (hv : v ≠ d) (hm : mcanon d lo m = true) :
    mcanon d lo (minsert m i v) = true := by
  induction m generalizing lo with
  | nil => simp [minsert, mcanon, hi, hv]
  | cons e r ih =>
    obtain ⟨k, w⟩ := e
    simp only [mcanon, Bool.and_eq_true, decide_eq_true_eq] at hm
    simp only [minsert]
    split
    · simp only [mcanon, Bool.and_eq_true, decide_eq_true_eq]
      exact ⟨⟨hi, hv⟩, ⟨by omega, hm.1.2⟩, hm.2⟩
    · split
      · simp only [mcanon, Bool.and_eq_true, decide_eq_true_eq]
        rename_i hk; subst hk
        exact ⟨⟨hi, hv⟩, hm.2⟩
      · simp only [mcanon, Bool.and_eq_true, decide_eq_true_eq]
        exact ⟨hm.1, ih (k + 1) (by omega) hm.2⟩

theorem mcanon_merase [DecidableEq α] (d : α) (m : SMap α) (lo i : Nat) (hm : mcanon d lo m = true) : mcanon d lo (merase m i) = true := by
  induction m generalizing lo with
  | nil => rfl
  | cons e r ih =>
    obtain ⟨k, w⟩ := e
    simp only [mcanon, Bool.and_eq_true, decide_eq_true_eq] at hm
    simp only [merase]
    split
    · exact mcanon_mono d _ (k + 1) lo (by omega) (ih (k + 1) hm.2)
    · simp only [mcanon, Bool.and_eq_true, decide_eq_true_eq]
      exact ⟨hm.1, ih (k + 1) hm.2⟩

/-- A write keeps the canonical form. -/
theorem mcanon_mput [DecidableEq α] (d : α) (m : SMap α) (i : Nat) (v : α) (hm : mcanon d 0 m = true) : mcanon d 0 (mput d m i v) = true := by
  unfold mput
  split
  · exact mcanon_merase d m 0 i hm
  · rename_i h; exact mcanon_minsert d m 0 i v (Nat.zero_le _) h hm

theorem mcanon_filter [DecidableEq α] (d : α) (p : Nat × α → Bool) (m : SMap α) (lo : Nat) (hm : mcanon d lo m = true) :
    mcanon d lo (m.filter p) = true := by
  induction m generalizing lo with
  | nil => rfl
  | cons e r ih =>
    obtain ⟨k, w⟩ := e
    simp only [mcanon, Bool.and_eq_true, decide_eq_true_eq] at hm
    simp only [List.filter_cons]
    split
    · simp only [mcanon, Bool.and_eq_true, decide_eq_true_eq]
      exact ⟨hm.1, ih (k + 1) hm.2⟩
    · exact mcanon_mono d _ (k + 1) lo (by omega) (ih (k + 1) hm.2)

/-- Clearing a range keeps the canonical form. -/
theorem mcanon_mclear [DecidableEq α] (d : α) (m : SMap α) (lo n : Nat) (hm : mcanon d 0 m = true) : mcanon d 0 (mclear m lo n) = true :=
  mcanon_filter d _ m 0 hm

/-- Writing bytes keeps the canonical form. -/
theorem mcanon_mwriteBytes (m : SMap Byte) (a : Nat) (l : List Byte) (hm : mcanon 0 0 m = true) : mcanon 0 0 (mwriteBytes m a l) = true := by
  induction l generalizing m a with
  | nil => exact hm
  | cons b r ih => exact ih _ _ (mcanon_mput 0 m a b hm)

/-! ### Bytes -/

@[simp] theorem toBytes_length (n v : Nat) : (toBytes n v).length = n := by
  induction n generalizing v with
  | zero => rfl
  | succ k ih => simp [toBytes, ih]

/-- Storing a value and reading it back gives it modulo the size (R8). -/
@[simp] theorem ofBytes_toBytes (n v : Nat) : ofBytes (toBytes n v) = v % 2 ^ (8 * n) := by
  induction n generalizing v with
  | zero => simp [toBytes, ofBytes, Nat.mod_one]
  | succ k ih =>
    simp only [toBytes, ofBytes, ih, BitVec.toNat_ofNat]
    rw [show 8 * (k + 1) = 8 + 8 * k by omega, Nat.pow_add, Nat.mod_mul]

/-- A byte outside the written ones reads as before. -/
theorem mget_mwriteBytes_out (m : SMap Byte) (a j : Nat) (l : List Byte) (h : j < a ∨ a + l.length ≤ j) :
    mget 0 (mwriteBytes m a l) j = mget 0 m j := by
  induction l generalizing m a with
  | nil => rfl
  | cons b r ih =>
    simp only [mwriteBytes, List.length_cons] at h ⊢
    rw [ih _ _ (by omega), mget_mput_ne _ _ _ _ _ (by omega)]

/-- A written byte reads as what was written. -/
theorem mget_mwriteBytes_in (m : SMap Byte) (a i : Nat) (l : List Byte) (h : i < l.length) :
    mget 0 (mwriteBytes m a l) (a + i) = l[i] := by
  induction l generalizing m a i with
  | nil => simp at h
  | cons b r ih =>
    cases i with
    | zero => simp only [mwriteBytes, Nat.add_zero]; rw [mget_mwriteBytes_out _ _ _ _ (by omega)]; simp
    | succ k =>
      simp only [mwriteBytes, List.getElem_cons_succ]
      rw [show a + (k + 1) = (a + 1) + k by omega]
      exact ih _ _ _ (by simpa using h)

/-! ### Memory -/

/-- A byte reads as what was written to it. -/
@[simp] theorem Memory.byte_setByte_same (m : List Host.Cell) (a : Nat) (b : Byte) : Memory.byte (Memory.setByte m a b) a = b :=
  mget_mput_same Memory.unlisted m a b

/-- A byte write leaves every other byte alone. -/
@[simp] theorem Memory.byte_setByte_ne (m : List Host.Cell) (a j : Nat) (b : Byte) (h : j ≠ a) :
    Memory.byte (Memory.setByte m a b) j = Memory.byte m j :=
  mget_mput_ne Memory.unlisted m a j b h

/-- A write leaves every byte outside its range alone. -/
theorem Memory.byte_write_out (m : List Host.Cell) (a j : Nat) (l : List Byte) (h : j < a ∨ a + l.length ≤ j) :
    Memory.byte (Memory.write m a l) j = Memory.byte m j :=
  mget_mwriteBytes_out m a j l h

/-- A written byte reads as what was written. -/
theorem Memory.byte_write_in (m : List Host.Cell) (a i : Nat) (l : List Byte) (h : i < l.length) :
    Memory.byte (Memory.write m a l) (a + i) = l[i] :=
  mget_mwriteBytes_in m a i l h

/-- Every operation on memory keeps the canonical form: a byte's write, -/
theorem Memory.wf_setByte (m : List Host.Cell) (a : Nat) (b : Byte) (h : Memory.wf m = true) : Memory.wf (Memory.setByte m a b) = true :=
  mcanon_mput Memory.unlisted m a b h

/-- a write of several bytes, -/
theorem Memory.wf_write (m : List Host.Cell) (a : Nat) (l : List Byte) (h : Memory.wf m = true) : Memory.wf (Memory.write m a l) = true :=
  mcanon_mwriteBytes m a l h

/-- and clearing a range. -/
theorem Memory.wf_clear (m : List Host.Cell) (a n : Nat) (h : Memory.wf m = true) : Memory.wf (Memory.clear m a n) = true :=
  mcanon_mclear Memory.unlisted m a n h

end Sys2Proof.Machine
end

