-- ==== Sys2Proof/Laws/State.lean ====
section
/-! SUPPORT. The fields of the state after each update: what an update does not name it leaves alone, true by unfolding. Later proofs use
these and never unfold a record update. -/

namespace Sys2Proof.Machine

open Sys2Proof

/-! ### The device -/

@[simp] theorem Dev.setCore_mem (m : Dev) (i : Nat) (c : Core) : (m.setCore i c).mem = m.mem := rfl
@[simp] theorem Dev.setCore_poisoned (m : Dev) (i : Nat) (c : Core) : (m.setCore i c).poisoned = m.poisoned := rfl
@[simp] theorem Dev.setCore_l2 (m : Dev) (i : Nat) (c : Core) : (m.setCore i c).l2 = m.l2 := rfl
@[simp] theorem Dev.setCore_far (m : Dev) (i : Nat) (c : Core) : (m.setCore i c).far = m.far := rfl
@[simp] theorem Dev.setCore_home (m : Dev) (i : Nat) (c : Core) : (m.setCore i c).home = m.home := rfl
@[simp] theorem Dev.setCore_hostHeld (m : Dev) (i : Nat) (c : Core) : (m.setCore i c).hostHeld = m.hostHeld := rfl
@[simp] theorem Dev.setCore_podHeld (m : Dev) (i : Nat) (c : Core) : (m.setCore i c).podHeld = m.podHeld := rfl
@[simp] theorem Dev.setCore_podRecalls (m : Dev) (i : Nat) (c : Core) : (m.setCore i c).podRecalls = m.podRecalls := rfl
@[simp] theorem Dev.setCore_podOwned (m : Dev) (i : Nat) (c : Core) : (m.setCore i c).podOwned = m.podOwned := rfl
@[simp] theorem Dev.setCore_podOwns (m : Dev) (i : Nat) (c : Core) : (m.setCore i c).podOwns = m.podOwns := rfl
@[simp] theorem Dev.setCore_podAsks (m : Dev) (i : Nat) (c : Core) : (m.setCore i c).podAsks = m.podAsks := rfl
@[simp] theorem Dev.setCore_grains (m : Dev) (i : Nat) (c : Core) : (m.setCore i c).grains = m.grains := rfl
@[simp] theorem Dev.setCore_snoops (m : Dev) (i : Nat) (c : Core) : (m.setCore i c).snoops = m.snoops := rfl
@[simp] theorem Dev.setCore_marks (m : Dev) (i : Nat) (c : Core) : (m.setCore i c).marks = m.marks := rfl
@[simp] theorem Dev.setCore_watchFull (m : Dev) (i : Nat) (c : Core) : (m.setCore i c).watchFull = m.watchFull := rfl
@[simp] theorem Dev.setCore_dies (m : Dev) (i : Nat) (c : Core) : (m.setCore i c).dies = m.dies := rfl
@[simp] theorem Dev.setCore_ctxs (m : Dev) (i : Nat) (c : Core) : (m.setCore i c).ctxs = m.ctxs := rfl
@[simp] theorem Dev.setCore_launches (m : Dev) (i : Nat) (c : Core) : (m.setCore i c).launches = m.launches := rfl
@[simp] theorem Dev.setCore_nextLaunch (m : Dev) (i : Nat) (c : Core) : (m.setCore i c).nextLaunch = m.nextLaunch := rfl
@[simp] theorem Dev.setCore_heldWrites (m : Dev) (i : Nat) (c : Core) : (m.setCore i c).heldWrites = m.heldWrites := rfl
@[simp] theorem Dev.setCore_mgmt (m : Dev) (i : Nat) (c : Core) : (m.setCore i c).mgmt = m.mgmt := rfl
@[simp] theorem Dev.setCore_nextId (m : Dev) (i : Nat) (c : Core) : (m.setCore i c).nextId = m.nextId := rfl
@[simp] theorem Dev.setCore_freeCtr (m : Dev) (i : Nat) (c : Core) : (m.setCore i c).freeCtr = m.freeCtr := rfl
@[simp] theorem Dev.setCore_cur (m : Dev) (i : Nat) (c : Core) : (m.setCore i c).cur = m.cur := rfl
@[simp] theorem Dev.setCore_moves (m : Dev) (i : Nat) (c : Core) : (m.setCore i c).moves = m.moves := rfl

@[simp] theorem Dev.modCore_mem (m : Dev) (i : Nat) (f : Core → Core) : (m.modCore i f).mem = m.mem := rfl
@[simp] theorem Dev.modCore_poisoned (m : Dev) (i : Nat) (f : Core → Core) : (m.modCore i f).poisoned = m.poisoned := rfl
@[simp] theorem Dev.modCore_l2 (m : Dev) (i : Nat) (f : Core → Core) : (m.modCore i f).l2 = m.l2 := rfl
@[simp] theorem Dev.modCore_far (m : Dev) (i : Nat) (f : Core → Core) : (m.modCore i f).far = m.far := rfl
@[simp] theorem Dev.modCore_home (m : Dev) (i : Nat) (f : Core → Core) : (m.modCore i f).home = m.home := rfl
@[simp] theorem Dev.modCore_hostHeld (m : Dev) (i : Nat) (f : Core → Core) : (m.modCore i f).hostHeld = m.hostHeld := rfl
@[simp] theorem Dev.modCore_podHeld (m : Dev) (i : Nat) (f : Core → Core) : (m.modCore i f).podHeld = m.podHeld := rfl
@[simp] theorem Dev.modCore_podRecalls (m : Dev) (i : Nat) (f : Core → Core) : (m.modCore i f).podRecalls = m.podRecalls := rfl
@[simp] theorem Dev.modCore_podOwned (m : Dev) (i : Nat) (f : Core → Core) : (m.modCore i f).podOwned = m.podOwned := rfl
@[simp] theorem Dev.modCore_podOwns (m : Dev) (i : Nat) (f : Core → Core) : (m.modCore i f).podOwns = m.podOwns := rfl
@[simp] theorem Dev.modCore_podAsks (m : Dev) (i : Nat) (f : Core → Core) : (m.modCore i f).podAsks = m.podAsks := rfl
@[simp] theorem Dev.modCore_grains (m : Dev) (i : Nat) (f : Core → Core) : (m.modCore i f).grains = m.grains := rfl
@[simp] theorem Dev.modCore_snoops (m : Dev) (i : Nat) (f : Core → Core) : (m.modCore i f).snoops = m.snoops := rfl
@[simp] theorem Dev.modCore_marks (m : Dev) (i : Nat) (f : Core → Core) : (m.modCore i f).marks = m.marks := rfl
@[simp] theorem Dev.modCore_watchFull (m : Dev) (i : Nat) (f : Core → Core) : (m.modCore i f).watchFull = m.watchFull := rfl
@[simp] theorem Dev.modCore_dies (m : Dev) (i : Nat) (f : Core → Core) : (m.modCore i f).dies = m.dies := rfl
@[simp] theorem Dev.modCore_ctxs (m : Dev) (i : Nat) (f : Core → Core) : (m.modCore i f).ctxs = m.ctxs := rfl
@[simp] theorem Dev.modCore_launches (m : Dev) (i : Nat) (f : Core → Core) : (m.modCore i f).launches = m.launches := rfl
@[simp] theorem Dev.modCore_nextLaunch (m : Dev) (i : Nat) (f : Core → Core) : (m.modCore i f).nextLaunch = m.nextLaunch := rfl
@[simp] theorem Dev.modCore_heldWrites (m : Dev) (i : Nat) (f : Core → Core) : (m.modCore i f).heldWrites = m.heldWrites := rfl
@[simp] theorem Dev.modCore_mgmt (m : Dev) (i : Nat) (f : Core → Core) : (m.modCore i f).mgmt = m.mgmt := rfl
@[simp] theorem Dev.modCore_nextId (m : Dev) (i : Nat) (f : Core → Core) : (m.modCore i f).nextId = m.nextId := rfl
@[simp] theorem Dev.modCore_freeCtr (m : Dev) (i : Nat) (f : Core → Core) : (m.modCore i f).freeCtr = m.freeCtr := rfl
@[simp] theorem Dev.modCore_cur (m : Dev) (i : Nat) (f : Core → Core) : (m.modCore i f).cur = m.cur := rfl
@[simp] theorem Dev.modCore_moves (m : Dev) (i : Nat) (f : Core → Core) : (m.modCore i f).moves = m.moves := rfl

@[simp] theorem Dev.modBlock_mem (m : Dev) (i b : Nat) (f : Block → Block) : (m.modBlock i b f).mem = m.mem := rfl
@[simp] theorem Dev.modBlock_poisoned (m : Dev) (i b : Nat) (f : Block → Block) : (m.modBlock i b f).poisoned = m.poisoned := rfl
@[simp] theorem Dev.modBlock_l2 (m : Dev) (i b : Nat) (f : Block → Block) : (m.modBlock i b f).l2 = m.l2 := rfl
@[simp] theorem Dev.modBlock_far (m : Dev) (i b : Nat) (f : Block → Block) : (m.modBlock i b f).far = m.far := rfl
@[simp] theorem Dev.modBlock_home (m : Dev) (i b : Nat) (f : Block → Block) : (m.modBlock i b f).home = m.home := rfl
@[simp] theorem Dev.modBlock_hostHeld (m : Dev) (i b : Nat) (f : Block → Block) : (m.modBlock i b f).hostHeld = m.hostHeld := rfl
@[simp] theorem Dev.modBlock_podHeld (m : Dev) (i b : Nat) (f : Block → Block) : (m.modBlock i b f).podHeld = m.podHeld := rfl
@[simp] theorem Dev.modBlock_podRecalls (m : Dev) (i b : Nat) (f : Block → Block) : (m.modBlock i b f).podRecalls = m.podRecalls := rfl
@[simp] theorem Dev.modBlock_podOwned (m : Dev) (i b : Nat) (f : Block → Block) : (m.modBlock i b f).podOwned = m.podOwned := rfl
@[simp] theorem Dev.modBlock_podOwns (m : Dev) (i b : Nat) (f : Block → Block) : (m.modBlock i b f).podOwns = m.podOwns := rfl
@[simp] theorem Dev.modBlock_podAsks (m : Dev) (i b : Nat) (f : Block → Block) : (m.modBlock i b f).podAsks = m.podAsks := rfl
@[simp] theorem Dev.modBlock_grains (m : Dev) (i b : Nat) (f : Block → Block) : (m.modBlock i b f).grains = m.grains := rfl
@[simp] theorem Dev.modBlock_snoops (m : Dev) (i b : Nat) (f : Block → Block) : (m.modBlock i b f).snoops = m.snoops := rfl
@[simp] theorem Dev.modBlock_marks (m : Dev) (i b : Nat) (f : Block → Block) : (m.modBlock i b f).marks = m.marks := rfl
@[simp] theorem Dev.modBlock_watchFull (m : Dev) (i b : Nat) (f : Block → Block) : (m.modBlock i b f).watchFull = m.watchFull := rfl
@[simp] theorem Dev.modBlock_dies (m : Dev) (i b : Nat) (f : Block → Block) : (m.modBlock i b f).dies = m.dies := rfl
@[simp] theorem Dev.modBlock_ctxs (m : Dev) (i b : Nat) (f : Block → Block) : (m.modBlock i b f).ctxs = m.ctxs := rfl
@[simp] theorem Dev.modBlock_launches (m : Dev) (i b : Nat) (f : Block → Block) : (m.modBlock i b f).launches = m.launches := rfl
@[simp] theorem Dev.modBlock_nextLaunch (m : Dev) (i b : Nat) (f : Block → Block) : (m.modBlock i b f).nextLaunch = m.nextLaunch := rfl
@[simp] theorem Dev.modBlock_heldWrites (m : Dev) (i b : Nat) (f : Block → Block) : (m.modBlock i b f).heldWrites = m.heldWrites := rfl
@[simp] theorem Dev.modBlock_mgmt (m : Dev) (i b : Nat) (f : Block → Block) : (m.modBlock i b f).mgmt = m.mgmt := rfl
@[simp] theorem Dev.modBlock_nextId (m : Dev) (i b : Nat) (f : Block → Block) : (m.modBlock i b f).nextId = m.nextId := rfl
@[simp] theorem Dev.modBlock_freeCtr (m : Dev) (i b : Nat) (f : Block → Block) : (m.modBlock i b f).freeCtr = m.freeCtr := rfl
@[simp] theorem Dev.modBlock_cur (m : Dev) (i b : Nat) (f : Block → Block) : (m.modBlock i b f).cur = m.cur := rfl
@[simp] theorem Dev.modBlock_moves (m : Dev) (i b : Nat) (f : Block → Block) : (m.modBlock i b f).moves = m.moves := rfl

@[simp] theorem Dev.modThread_mem (m : Dev) (i b s : Nat) (f : Thread → Thread) : (m.modThread i b s f).mem = m.mem := rfl
@[simp] theorem Dev.modThread_poisoned (m : Dev) (i b s : Nat) (f : Thread → Thread) : (m.modThread i b s f).poisoned = m.poisoned := rfl
@[simp] theorem Dev.modThread_l2 (m : Dev) (i b s : Nat) (f : Thread → Thread) : (m.modThread i b s f).l2 = m.l2 := rfl
@[simp] theorem Dev.modThread_far (m : Dev) (i b s : Nat) (f : Thread → Thread) : (m.modThread i b s f).far = m.far := rfl
@[simp] theorem Dev.modThread_home (m : Dev) (i b s : Nat) (f : Thread → Thread) : (m.modThread i b s f).home = m.home := rfl
@[simp] theorem Dev.modThread_hostHeld (m : Dev) (i b s : Nat) (f : Thread → Thread) : (m.modThread i b s f).hostHeld = m.hostHeld := rfl
@[simp] theorem Dev.modThread_podHeld (m : Dev) (i b s : Nat) (f : Thread → Thread) : (m.modThread i b s f).podHeld = m.podHeld := rfl
@[simp] theorem Dev.modThread_podRecalls (m : Dev) (i b s : Nat) (f : Thread → Thread) : (m.modThread i b s f).podRecalls = m.podRecalls := rfl
@[simp] theorem Dev.modThread_podOwned (m : Dev) (i b s : Nat) (f : Thread → Thread) : (m.modThread i b s f).podOwned = m.podOwned := rfl
@[simp] theorem Dev.modThread_podOwns (m : Dev) (i b s : Nat) (f : Thread → Thread) : (m.modThread i b s f).podOwns = m.podOwns := rfl
@[simp] theorem Dev.modThread_podAsks (m : Dev) (i b s : Nat) (f : Thread → Thread) : (m.modThread i b s f).podAsks = m.podAsks := rfl
@[simp] theorem Dev.modThread_grains (m : Dev) (i b s : Nat) (f : Thread → Thread) : (m.modThread i b s f).grains = m.grains := rfl
@[simp] theorem Dev.modThread_snoops (m : Dev) (i b s : Nat) (f : Thread → Thread) : (m.modThread i b s f).snoops = m.snoops := rfl
@[simp] theorem Dev.modThread_marks (m : Dev) (i b s : Nat) (f : Thread → Thread) : (m.modThread i b s f).marks = m.marks := rfl
@[simp] theorem Dev.modThread_watchFull (m : Dev) (i b s : Nat) (f : Thread → Thread) : (m.modThread i b s f).watchFull = m.watchFull := rfl
@[simp] theorem Dev.modThread_dies (m : Dev) (i b s : Nat) (f : Thread → Thread) : (m.modThread i b s f).dies = m.dies := rfl
@[simp] theorem Dev.modThread_ctxs (m : Dev) (i b s : Nat) (f : Thread → Thread) : (m.modThread i b s f).ctxs = m.ctxs := rfl
@[simp] theorem Dev.modThread_launches (m : Dev) (i b s : Nat) (f : Thread → Thread) : (m.modThread i b s f).launches = m.launches := rfl
@[simp] theorem Dev.modThread_nextLaunch (m : Dev) (i b s : Nat) (f : Thread → Thread) : (m.modThread i b s f).nextLaunch = m.nextLaunch := rfl
@[simp] theorem Dev.modThread_heldWrites (m : Dev) (i b s : Nat) (f : Thread → Thread) : (m.modThread i b s f).heldWrites = m.heldWrites := rfl
@[simp] theorem Dev.modThread_mgmt (m : Dev) (i b s : Nat) (f : Thread → Thread) : (m.modThread i b s f).mgmt = m.mgmt := rfl
@[simp] theorem Dev.modThread_nextId (m : Dev) (i b s : Nat) (f : Thread → Thread) : (m.modThread i b s f).nextId = m.nextId := rfl
@[simp] theorem Dev.modThread_freeCtr (m : Dev) (i b s : Nat) (f : Thread → Thread) : (m.modThread i b s f).freeCtr = m.freeCtr := rfl
@[simp] theorem Dev.modThread_cur (m : Dev) (i b s : Nat) (f : Thread → Thread) : (m.modThread i b s f).cur = m.cur := rfl
@[simp] theorem Dev.modThread_moves (m : Dev) (i b s : Nat) (f : Thread → Thread) : (m.modThread i b s f).moves = m.moves := rfl

@[simp] theorem Dev.marked_mem (m : Dev) (cu : Cursor) (c : Ctl) : (m.marked cu c).mem = m.mem := rfl
@[simp] theorem Dev.marked_poisoned (m : Dev) (cu : Cursor) (c : Ctl) : (m.marked cu c).poisoned = m.poisoned := rfl
@[simp] theorem Dev.marked_l2 (m : Dev) (cu : Cursor) (c : Ctl) : (m.marked cu c).l2 = m.l2 := rfl
@[simp] theorem Dev.marked_far (m : Dev) (cu : Cursor) (c : Ctl) : (m.marked cu c).far = m.far := rfl
@[simp] theorem Dev.marked_home (m : Dev) (cu : Cursor) (c : Ctl) : (m.marked cu c).home = m.home := rfl
@[simp] theorem Dev.marked_hostHeld (m : Dev) (cu : Cursor) (c : Ctl) : (m.marked cu c).hostHeld = m.hostHeld := rfl
@[simp] theorem Dev.marked_podHeld (m : Dev) (cu : Cursor) (c : Ctl) : (m.marked cu c).podHeld = m.podHeld := rfl
@[simp] theorem Dev.marked_podRecalls (m : Dev) (cu : Cursor) (c : Ctl) : (m.marked cu c).podRecalls = m.podRecalls := rfl
@[simp] theorem Dev.marked_podOwned (m : Dev) (cu : Cursor) (c : Ctl) : (m.marked cu c).podOwned = m.podOwned := rfl
@[simp] theorem Dev.marked_podOwns (m : Dev) (cu : Cursor) (c : Ctl) : (m.marked cu c).podOwns = m.podOwns := rfl
@[simp] theorem Dev.marked_podAsks (m : Dev) (cu : Cursor) (c : Ctl) : (m.marked cu c).podAsks = m.podAsks := rfl
@[simp] theorem Dev.marked_grains (m : Dev) (cu : Cursor) (c : Ctl) : (m.marked cu c).grains = m.grains := rfl
@[simp] theorem Dev.marked_snoops (m : Dev) (cu : Cursor) (c : Ctl) : (m.marked cu c).snoops = m.snoops := rfl
@[simp] theorem Dev.marked_marks (m : Dev) (cu : Cursor) (c : Ctl) : (m.marked cu c).marks = m.marks := rfl
@[simp] theorem Dev.marked_watchFull (m : Dev) (cu : Cursor) (c : Ctl) : (m.marked cu c).watchFull = m.watchFull := rfl
@[simp] theorem Dev.marked_dies (m : Dev) (cu : Cursor) (c : Ctl) : (m.marked cu c).dies = m.dies := rfl
@[simp] theorem Dev.marked_ctxs (m : Dev) (cu : Cursor) (c : Ctl) : (m.marked cu c).ctxs = m.ctxs := rfl
@[simp] theorem Dev.marked_launches (m : Dev) (cu : Cursor) (c : Ctl) : (m.marked cu c).launches = m.launches := rfl
@[simp] theorem Dev.marked_nextLaunch (m : Dev) (cu : Cursor) (c : Ctl) : (m.marked cu c).nextLaunch = m.nextLaunch := rfl
@[simp] theorem Dev.marked_heldWrites (m : Dev) (cu : Cursor) (c : Ctl) : (m.marked cu c).heldWrites = m.heldWrites := rfl
@[simp] theorem Dev.marked_mgmt (m : Dev) (cu : Cursor) (c : Ctl) : (m.marked cu c).mgmt = m.mgmt := rfl
@[simp] theorem Dev.marked_nextId (m : Dev) (cu : Cursor) (c : Ctl) : (m.marked cu c).nextId = m.nextId := rfl
@[simp] theorem Dev.marked_freeCtr (m : Dev) (cu : Cursor) (c : Ctl) : (m.marked cu c).freeCtr = m.freeCtr := rfl
@[simp] theorem Dev.marked_cur (m : Dev) (cu : Cursor) (c : Ctl) : (m.marked cu c).cur = m.cur := rfl
@[simp] theorem Dev.marked_moves (m : Dev) (cu : Cursor) (c : Ctl) : (m.marked cu c).moves = m.moves := rfl

@[simp] theorem Dev.modCtx_mem (m : Dev) (a : Nat) (f : Context → Context) : (m.modCtx a f).mem = m.mem := rfl
@[simp] theorem Dev.modCtx_poisoned (m : Dev) (a : Nat) (f : Context → Context) : (m.modCtx a f).poisoned = m.poisoned := rfl
@[simp] theorem Dev.modCtx_l2 (m : Dev) (a : Nat) (f : Context → Context) : (m.modCtx a f).l2 = m.l2 := rfl
@[simp] theorem Dev.modCtx_far (m : Dev) (a : Nat) (f : Context → Context) : (m.modCtx a f).far = m.far := rfl
@[simp] theorem Dev.modCtx_home (m : Dev) (a : Nat) (f : Context → Context) : (m.modCtx a f).home = m.home := rfl
@[simp] theorem Dev.modCtx_hostHeld (m : Dev) (a : Nat) (f : Context → Context) : (m.modCtx a f).hostHeld = m.hostHeld := rfl
@[simp] theorem Dev.modCtx_podHeld (m : Dev) (a : Nat) (f : Context → Context) : (m.modCtx a f).podHeld = m.podHeld := rfl
@[simp] theorem Dev.modCtx_podRecalls (m : Dev) (a : Nat) (f : Context → Context) : (m.modCtx a f).podRecalls = m.podRecalls := rfl
@[simp] theorem Dev.modCtx_podOwned (m : Dev) (a : Nat) (f : Context → Context) : (m.modCtx a f).podOwned = m.podOwned := rfl
@[simp] theorem Dev.modCtx_podOwns (m : Dev) (a : Nat) (f : Context → Context) : (m.modCtx a f).podOwns = m.podOwns := rfl
@[simp] theorem Dev.modCtx_podAsks (m : Dev) (a : Nat) (f : Context → Context) : (m.modCtx a f).podAsks = m.podAsks := rfl
@[simp] theorem Dev.modCtx_grains (m : Dev) (a : Nat) (f : Context → Context) : (m.modCtx a f).grains = m.grains := rfl
@[simp] theorem Dev.modCtx_snoops (m : Dev) (a : Nat) (f : Context → Context) : (m.modCtx a f).snoops = m.snoops := rfl
@[simp] theorem Dev.modCtx_marks (m : Dev) (a : Nat) (f : Context → Context) : (m.modCtx a f).marks = m.marks := rfl
@[simp] theorem Dev.modCtx_watchFull (m : Dev) (a : Nat) (f : Context → Context) : (m.modCtx a f).watchFull = m.watchFull := rfl
@[simp] theorem Dev.modCtx_dies (m : Dev) (a : Nat) (f : Context → Context) : (m.modCtx a f).dies = m.dies := rfl
@[simp] theorem Dev.modCtx_cores (m : Dev) (a : Nat) (f : Context → Context) : (m.modCtx a f).cores = m.cores := rfl
@[simp] theorem Dev.modCtx_launches (m : Dev) (a : Nat) (f : Context → Context) : (m.modCtx a f).launches = m.launches := rfl
@[simp] theorem Dev.modCtx_nextLaunch (m : Dev) (a : Nat) (f : Context → Context) : (m.modCtx a f).nextLaunch = m.nextLaunch := rfl
@[simp] theorem Dev.modCtx_heldWrites (m : Dev) (a : Nat) (f : Context → Context) : (m.modCtx a f).heldWrites = m.heldWrites := rfl
@[simp] theorem Dev.modCtx_mgmt (m : Dev) (a : Nat) (f : Context → Context) : (m.modCtx a f).mgmt = m.mgmt := rfl
@[simp] theorem Dev.modCtx_nextId (m : Dev) (a : Nat) (f : Context → Context) : (m.modCtx a f).nextId = m.nextId := rfl
@[simp] theorem Dev.modCtx_freeCtr (m : Dev) (a : Nat) (f : Context → Context) : (m.modCtx a f).freeCtr = m.freeCtr := rfl
@[simp] theorem Dev.modCtx_cur (m : Dev) (a : Nat) (f : Context → Context) : (m.modCtx a f).cur = m.cur := rfl
@[simp] theorem Dev.modCtx_moves (m : Dev) (a : Nat) (f : Context → Context) : (m.modCtx a f).moves = m.moves := rfl

@[simp] theorem Dev.raise_mem (m : Dev) (a : Nat) (f : FaultInfo) : (m.raise a f).mem = m.mem := rfl
@[simp] theorem Dev.raise_poisoned (m : Dev) (a : Nat) (f : FaultInfo) : (m.raise a f).poisoned = m.poisoned := rfl
@[simp] theorem Dev.raise_l2 (m : Dev) (a : Nat) (f : FaultInfo) : (m.raise a f).l2 = m.l2 := rfl
@[simp] theorem Dev.raise_far (m : Dev) (a : Nat) (f : FaultInfo) : (m.raise a f).far = m.far := rfl
@[simp] theorem Dev.raise_home (m : Dev) (a : Nat) (f : FaultInfo) : (m.raise a f).home = m.home := rfl
@[simp] theorem Dev.raise_hostHeld (m : Dev) (a : Nat) (f : FaultInfo) : (m.raise a f).hostHeld = m.hostHeld := rfl
@[simp] theorem Dev.raise_podHeld (m : Dev) (a : Nat) (f : FaultInfo) : (m.raise a f).podHeld = m.podHeld := rfl
@[simp] theorem Dev.raise_podRecalls (m : Dev) (a : Nat) (f : FaultInfo) : (m.raise a f).podRecalls = m.podRecalls := rfl
@[simp] theorem Dev.raise_podOwned (m : Dev) (a : Nat) (f : FaultInfo) : (m.raise a f).podOwned = m.podOwned := rfl
@[simp] theorem Dev.raise_podOwns (m : Dev) (a : Nat) (f : FaultInfo) : (m.raise a f).podOwns = m.podOwns := rfl
@[simp] theorem Dev.raise_podAsks (m : Dev) (a : Nat) (f : FaultInfo) : (m.raise a f).podAsks = m.podAsks := rfl
@[simp] theorem Dev.raise_grains (m : Dev) (a : Nat) (f : FaultInfo) : (m.raise a f).grains = m.grains := rfl
@[simp] theorem Dev.raise_snoops (m : Dev) (a : Nat) (f : FaultInfo) : (m.raise a f).snoops = m.snoops := rfl
@[simp] theorem Dev.raise_marks (m : Dev) (a : Nat) (f : FaultInfo) : (m.raise a f).marks = m.marks := rfl
@[simp] theorem Dev.raise_watchFull (m : Dev) (a : Nat) (f : FaultInfo) : (m.raise a f).watchFull = m.watchFull := rfl
@[simp] theorem Dev.raise_dies (m : Dev) (a : Nat) (f : FaultInfo) : (m.raise a f).dies = m.dies := rfl
@[simp] theorem Dev.raise_cores (m : Dev) (a : Nat) (f : FaultInfo) : (m.raise a f).cores = m.cores := rfl
@[simp] theorem Dev.raise_launches (m : Dev) (a : Nat) (f : FaultInfo) : (m.raise a f).launches = m.launches := rfl
@[simp] theorem Dev.raise_nextLaunch (m : Dev) (a : Nat) (f : FaultInfo) : (m.raise a f).nextLaunch = m.nextLaunch := rfl
@[simp] theorem Dev.raise_heldWrites (m : Dev) (a : Nat) (f : FaultInfo) : (m.raise a f).heldWrites = m.heldWrites := rfl
@[simp] theorem Dev.raise_mgmt (m : Dev) (a : Nat) (f : FaultInfo) : (m.raise a f).mgmt = m.mgmt := rfl
@[simp] theorem Dev.raise_nextId (m : Dev) (a : Nat) (f : FaultInfo) : (m.raise a f).nextId = m.nextId := rfl
@[simp] theorem Dev.raise_freeCtr (m : Dev) (a : Nat) (f : FaultInfo) : (m.raise a f).freeCtr = m.freeCtr := rfl
@[simp] theorem Dev.raise_cur (m : Dev) (a : Nat) (f : FaultInfo) : (m.raise a f).cur = m.cur := rfl
@[simp] theorem Dev.raise_moves (m : Dev) (a : Nat) (f : FaultInfo) : (m.raise a f).moves = m.moves := rfl

@[simp] theorem Dev.charge_mem (m : Dev) (a : Nat) (c : Charge) (f : Flt) (x : Susp) : (m.charge a c f x).mem = m.mem := rfl
@[simp] theorem Dev.charge_poisoned (m : Dev) (a : Nat) (c : Charge) (f : Flt) (x : Susp) : (m.charge a c f x).poisoned = m.poisoned := rfl
@[simp] theorem Dev.charge_l2 (m : Dev) (a : Nat) (c : Charge) (f : Flt) (x : Susp) : (m.charge a c f x).l2 = m.l2 := rfl
@[simp] theorem Dev.charge_far (m : Dev) (a : Nat) (c : Charge) (f : Flt) (x : Susp) : (m.charge a c f x).far = m.far := rfl
@[simp] theorem Dev.charge_home (m : Dev) (a : Nat) (c : Charge) (f : Flt) (x : Susp) : (m.charge a c f x).home = m.home := rfl
@[simp] theorem Dev.charge_hostHeld (m : Dev) (a : Nat) (c : Charge) (f : Flt) (x : Susp) : (m.charge a c f x).hostHeld = m.hostHeld := rfl
@[simp] theorem Dev.charge_podHeld (m : Dev) (a : Nat) (c : Charge) (f : Flt) (x : Susp) : (m.charge a c f x).podHeld = m.podHeld := rfl
@[simp] theorem Dev.charge_podRecalls (m : Dev) (a : Nat) (c : Charge) (f : Flt) (x : Susp) : (m.charge a c f x).podRecalls = m.podRecalls := rfl
@[simp] theorem Dev.charge_podOwned (m : Dev) (a : Nat) (c : Charge) (f : Flt) (x : Susp) : (m.charge a c f x).podOwned = m.podOwned := rfl
@[simp] theorem Dev.charge_podOwns (m : Dev) (a : Nat) (c : Charge) (f : Flt) (x : Susp) : (m.charge a c f x).podOwns = m.podOwns := rfl
@[simp] theorem Dev.charge_podAsks (m : Dev) (a : Nat) (c : Charge) (f : Flt) (x : Susp) : (m.charge a c f x).podAsks = m.podAsks := rfl
@[simp] theorem Dev.charge_grains (m : Dev) (a : Nat) (c : Charge) (f : Flt) (x : Susp) : (m.charge a c f x).grains = m.grains := rfl
@[simp] theorem Dev.charge_snoops (m : Dev) (a : Nat) (c : Charge) (f : Flt) (x : Susp) : (m.charge a c f x).snoops = m.snoops := rfl
@[simp] theorem Dev.charge_marks (m : Dev) (a : Nat) (c : Charge) (f : Flt) (x : Susp) : (m.charge a c f x).marks = m.marks := rfl
@[simp] theorem Dev.charge_watchFull (m : Dev) (a : Nat) (c : Charge) (f : Flt) (x : Susp) : (m.charge a c f x).watchFull = m.watchFull := rfl
@[simp] theorem Dev.charge_dies (m : Dev) (a : Nat) (c : Charge) (f : Flt) (x : Susp) : (m.charge a c f x).dies = m.dies := rfl
@[simp] theorem Dev.charge_cores (m : Dev) (a : Nat) (c : Charge) (f : Flt) (x : Susp) : (m.charge a c f x).cores = m.cores := rfl
@[simp] theorem Dev.charge_launches (m : Dev) (a : Nat) (c : Charge) (f : Flt) (x : Susp) : (m.charge a c f x).launches = m.launches := rfl
@[simp] theorem Dev.charge_nextLaunch (m : Dev) (a : Nat) (c : Charge) (f : Flt) (x : Susp) : (m.charge a c f x).nextLaunch = m.nextLaunch := rfl
@[simp] theorem Dev.charge_heldWrites (m : Dev) (a : Nat) (c : Charge) (f : Flt) (x : Susp) : (m.charge a c f x).heldWrites = m.heldWrites := rfl
@[simp] theorem Dev.charge_mgmt (m : Dev) (a : Nat) (c : Charge) (f : Flt) (x : Susp) : (m.charge a c f x).mgmt = m.mgmt := rfl
@[simp] theorem Dev.charge_nextId (m : Dev) (a : Nat) (c : Charge) (f : Flt) (x : Susp) : (m.charge a c f x).nextId = m.nextId := rfl
@[simp] theorem Dev.charge_freeCtr (m : Dev) (a : Nat) (c : Charge) (f : Flt) (x : Susp) : (m.charge a c f x).freeCtr = m.freeCtr := rfl
@[simp] theorem Dev.charge_cur (m : Dev) (a : Nat) (c : Charge) (f : Flt) (x : Susp) : (m.charge a c f x).cur = m.cur := rfl
@[simp] theorem Dev.charge_moves (m : Dev) (a : Nat) (c : Charge) (f : Flt) (x : Susp) : (m.charge a c f x).moves = m.moves := rfl

@[simp] theorem Dev.modDie_mem (m : Dev) (d : Nat) (f : DieCtl → DieCtl) : (m.modDie d f).mem = m.mem := rfl
@[simp] theorem Dev.modDie_poisoned (m : Dev) (d : Nat) (f : DieCtl → DieCtl) : (m.modDie d f).poisoned = m.poisoned := rfl
@[simp] theorem Dev.modDie_l2 (m : Dev) (d : Nat) (f : DieCtl → DieCtl) : (m.modDie d f).l2 = m.l2 := rfl
@[simp] theorem Dev.modDie_far (m : Dev) (d : Nat) (f : DieCtl → DieCtl) : (m.modDie d f).far = m.far := rfl
@[simp] theorem Dev.modDie_home (m : Dev) (d : Nat) (f : DieCtl → DieCtl) : (m.modDie d f).home = m.home := rfl
@[simp] theorem Dev.modDie_hostHeld (m : Dev) (d : Nat) (f : DieCtl → DieCtl) : (m.modDie d f).hostHeld = m.hostHeld := rfl
@[simp] theorem Dev.modDie_podHeld (m : Dev) (d : Nat) (f : DieCtl → DieCtl) : (m.modDie d f).podHeld = m.podHeld := rfl
@[simp] theorem Dev.modDie_podRecalls (m : Dev) (d : Nat) (f : DieCtl → DieCtl) : (m.modDie d f).podRecalls = m.podRecalls := rfl
@[simp] theorem Dev.modDie_podOwned (m : Dev) (d : Nat) (f : DieCtl → DieCtl) : (m.modDie d f).podOwned = m.podOwned := rfl
@[simp] theorem Dev.modDie_podOwns (m : Dev) (d : Nat) (f : DieCtl → DieCtl) : (m.modDie d f).podOwns = m.podOwns := rfl
@[simp] theorem Dev.modDie_podAsks (m : Dev) (d : Nat) (f : DieCtl → DieCtl) : (m.modDie d f).podAsks = m.podAsks := rfl
@[simp] theorem Dev.modDie_grains (m : Dev) (d : Nat) (f : DieCtl → DieCtl) : (m.modDie d f).grains = m.grains := rfl
@[simp] theorem Dev.modDie_snoops (m : Dev) (d : Nat) (f : DieCtl → DieCtl) : (m.modDie d f).snoops = m.snoops := rfl
@[simp] theorem Dev.modDie_marks (m : Dev) (d : Nat) (f : DieCtl → DieCtl) : (m.modDie d f).marks = m.marks := rfl
@[simp] theorem Dev.modDie_watchFull (m : Dev) (d : Nat) (f : DieCtl → DieCtl) : (m.modDie d f).watchFull = m.watchFull := rfl
@[simp] theorem Dev.modDie_cores (m : Dev) (d : Nat) (f : DieCtl → DieCtl) : (m.modDie d f).cores = m.cores := rfl
@[simp] theorem Dev.modDie_ctxs (m : Dev) (d : Nat) (f : DieCtl → DieCtl) : (m.modDie d f).ctxs = m.ctxs := rfl
@[simp] theorem Dev.modDie_launches (m : Dev) (d : Nat) (f : DieCtl → DieCtl) : (m.modDie d f).launches = m.launches := rfl
@[simp] theorem Dev.modDie_nextLaunch (m : Dev) (d : Nat) (f : DieCtl → DieCtl) : (m.modDie d f).nextLaunch = m.nextLaunch := rfl
@[simp] theorem Dev.modDie_heldWrites (m : Dev) (d : Nat) (f : DieCtl → DieCtl) : (m.modDie d f).heldWrites = m.heldWrites := rfl
@[simp] theorem Dev.modDie_mgmt (m : Dev) (d : Nat) (f : DieCtl → DieCtl) : (m.modDie d f).mgmt = m.mgmt := rfl
@[simp] theorem Dev.modDie_nextId (m : Dev) (d : Nat) (f : DieCtl → DieCtl) : (m.modDie d f).nextId = m.nextId := rfl
@[simp] theorem Dev.modDie_freeCtr (m : Dev) (d : Nat) (f : DieCtl → DieCtl) : (m.modDie d f).freeCtr = m.freeCtr := rfl
@[simp] theorem Dev.modDie_cur (m : Dev) (d : Nat) (f : DieCtl → DieCtl) : (m.modDie d f).cur = m.cur := rfl
@[simp] theorem Dev.modDie_moves (m : Dev) (d : Nat) (f : DieCtl → DieCtl) : (m.modDie d f).moves = m.moves := rfl

@[simp] theorem Dev.modMgmt_mem (m : Dev) (f : Mgmt → Mgmt) : (m.modMgmt f).mem = m.mem := rfl
@[simp] theorem Dev.modMgmt_poisoned (m : Dev) (f : Mgmt → Mgmt) : (m.modMgmt f).poisoned = m.poisoned := rfl
@[simp] theorem Dev.modMgmt_l2 (m : Dev) (f : Mgmt → Mgmt) : (m.modMgmt f).l2 = m.l2 := rfl
@[simp] theorem Dev.modMgmt_far (m : Dev) (f : Mgmt → Mgmt) : (m.modMgmt f).far = m.far := rfl
@[simp] theorem Dev.modMgmt_home (m : Dev) (f : Mgmt → Mgmt) : (m.modMgmt f).home = m.home := rfl
@[simp] theorem Dev.modMgmt_hostHeld (m : Dev) (f : Mgmt → Mgmt) : (m.modMgmt f).hostHeld = m.hostHeld := rfl
@[simp] theorem Dev.modMgmt_podHeld (m : Dev) (f : Mgmt → Mgmt) : (m.modMgmt f).podHeld = m.podHeld := rfl
@[simp] theorem Dev.modMgmt_podRecalls (m : Dev) (f : Mgmt → Mgmt) : (m.modMgmt f).podRecalls = m.podRecalls := rfl
@[simp] theorem Dev.modMgmt_podOwned (m : Dev) (f : Mgmt → Mgmt) : (m.modMgmt f).podOwned = m.podOwned := rfl
@[simp] theorem Dev.modMgmt_podOwns (m : Dev) (f : Mgmt → Mgmt) : (m.modMgmt f).podOwns = m.podOwns := rfl
@[simp] theorem Dev.modMgmt_podAsks (m : Dev) (f : Mgmt → Mgmt) : (m.modMgmt f).podAsks = m.podAsks := rfl
@[simp] theorem Dev.modMgmt_grains (m : Dev) (f : Mgmt → Mgmt) : (m.modMgmt f).grains = m.grains := rfl
@[simp] theorem Dev.modMgmt_snoops (m : Dev) (f : Mgmt → Mgmt) : (m.modMgmt f).snoops = m.snoops := rfl
@[simp] theorem Dev.modMgmt_marks (m : Dev) (f : Mgmt → Mgmt) : (m.modMgmt f).marks = m.marks := rfl
@[simp] theorem Dev.modMgmt_watchFull (m : Dev) (f : Mgmt → Mgmt) : (m.modMgmt f).watchFull = m.watchFull := rfl
@[simp] theorem Dev.modMgmt_dies (m : Dev) (f : Mgmt → Mgmt) : (m.modMgmt f).dies = m.dies := rfl
@[simp] theorem Dev.modMgmt_cores (m : Dev) (f : Mgmt → Mgmt) : (m.modMgmt f).cores = m.cores := rfl
@[simp] theorem Dev.modMgmt_ctxs (m : Dev) (f : Mgmt → Mgmt) : (m.modMgmt f).ctxs = m.ctxs := rfl
@[simp] theorem Dev.modMgmt_launches (m : Dev) (f : Mgmt → Mgmt) : (m.modMgmt f).launches = m.launches := rfl
@[simp] theorem Dev.modMgmt_nextLaunch (m : Dev) (f : Mgmt → Mgmt) : (m.modMgmt f).nextLaunch = m.nextLaunch := rfl
@[simp] theorem Dev.modMgmt_heldWrites (m : Dev) (f : Mgmt → Mgmt) : (m.modMgmt f).heldWrites = m.heldWrites := rfl
@[simp] theorem Dev.modMgmt_nextId (m : Dev) (f : Mgmt → Mgmt) : (m.modMgmt f).nextId = m.nextId := rfl
@[simp] theorem Dev.modMgmt_freeCtr (m : Dev) (f : Mgmt → Mgmt) : (m.modMgmt f).freeCtr = m.freeCtr := rfl
@[simp] theorem Dev.modMgmt_cur (m : Dev) (f : Mgmt → Mgmt) : (m.modMgmt f).cur = m.cur := rfl
@[simp] theorem Dev.modMgmt_moves (m : Dev) (f : Mgmt → Mgmt) : (m.modMgmt f).moves = m.moves := rfl

@[simp] theorem Dev.interrupt_mem (m : Dev) (v : Nat) : (m.interrupt v).mem = m.mem := rfl
@[simp] theorem Dev.interrupt_poisoned (m : Dev) (v : Nat) : (m.interrupt v).poisoned = m.poisoned := rfl
@[simp] theorem Dev.interrupt_l2 (m : Dev) (v : Nat) : (m.interrupt v).l2 = m.l2 := rfl
@[simp] theorem Dev.interrupt_far (m : Dev) (v : Nat) : (m.interrupt v).far = m.far := rfl
@[simp] theorem Dev.interrupt_home (m : Dev) (v : Nat) : (m.interrupt v).home = m.home := rfl
@[simp] theorem Dev.interrupt_hostHeld (m : Dev) (v : Nat) : (m.interrupt v).hostHeld = m.hostHeld := rfl
@[simp] theorem Dev.interrupt_podHeld (m : Dev) (v : Nat) : (m.interrupt v).podHeld = m.podHeld := rfl
@[simp] theorem Dev.interrupt_podRecalls (m : Dev) (v : Nat) : (m.interrupt v).podRecalls = m.podRecalls := rfl
@[simp] theorem Dev.interrupt_podOwned (m : Dev) (v : Nat) : (m.interrupt v).podOwned = m.podOwned := rfl
@[simp] theorem Dev.interrupt_podOwns (m : Dev) (v : Nat) : (m.interrupt v).podOwns = m.podOwns := rfl
@[simp] theorem Dev.interrupt_podAsks (m : Dev) (v : Nat) : (m.interrupt v).podAsks = m.podAsks := rfl
@[simp] theorem Dev.interrupt_grains (m : Dev) (v : Nat) : (m.interrupt v).grains = m.grains := rfl
@[simp] theorem Dev.interrupt_snoops (m : Dev) (v : Nat) : (m.interrupt v).snoops = m.snoops := rfl
@[simp] theorem Dev.interrupt_marks (m : Dev) (v : Nat) : (m.interrupt v).marks = m.marks := rfl
@[simp] theorem Dev.interrupt_watchFull (m : Dev) (v : Nat) : (m.interrupt v).watchFull = m.watchFull := rfl
@[simp] theorem Dev.interrupt_dies (m : Dev) (v : Nat) : (m.interrupt v).dies = m.dies := rfl
@[simp] theorem Dev.interrupt_cores (m : Dev) (v : Nat) : (m.interrupt v).cores = m.cores := rfl
@[simp] theorem Dev.interrupt_ctxs (m : Dev) (v : Nat) : (m.interrupt v).ctxs = m.ctxs := rfl
@[simp] theorem Dev.interrupt_launches (m : Dev) (v : Nat) : (m.interrupt v).launches = m.launches := rfl
@[simp] theorem Dev.interrupt_nextLaunch (m : Dev) (v : Nat) : (m.interrupt v).nextLaunch = m.nextLaunch := rfl
@[simp] theorem Dev.interrupt_heldWrites (m : Dev) (v : Nat) : (m.interrupt v).heldWrites = m.heldWrites := rfl
@[simp] theorem Dev.interrupt_nextId (m : Dev) (v : Nat) : (m.interrupt v).nextId = m.nextId := rfl
@[simp] theorem Dev.interrupt_freeCtr (m : Dev) (v : Nat) : (m.interrupt v).freeCtr = m.freeCtr := rfl
@[simp] theorem Dev.interrupt_cur (m : Dev) (v : Nat) : (m.interrupt v).cur = m.cur := rfl
@[simp] theorem Dev.interrupt_moves (m : Dev) (v : Nat) : (m.interrupt v).moves = m.moves := rfl

@[simp] theorem Dev.fresh_mem (m : Dev) : (m.fresh).mem = m.mem := rfl
@[simp] theorem Dev.fresh_poisoned (m : Dev) : (m.fresh).poisoned = m.poisoned := rfl
@[simp] theorem Dev.fresh_l2 (m : Dev) : (m.fresh).l2 = m.l2 := rfl
@[simp] theorem Dev.fresh_far (m : Dev) : (m.fresh).far = m.far := rfl
@[simp] theorem Dev.fresh_home (m : Dev) : (m.fresh).home = m.home := rfl
@[simp] theorem Dev.fresh_hostHeld (m : Dev) : (m.fresh).hostHeld = m.hostHeld := rfl
@[simp] theorem Dev.fresh_podHeld (m : Dev) : (m.fresh).podHeld = m.podHeld := rfl
@[simp] theorem Dev.fresh_podRecalls (m : Dev) : (m.fresh).podRecalls = m.podRecalls := rfl
@[simp] theorem Dev.fresh_podOwned (m : Dev) : (m.fresh).podOwned = m.podOwned := rfl
@[simp] theorem Dev.fresh_podOwns (m : Dev) : (m.fresh).podOwns = m.podOwns := rfl
@[simp] theorem Dev.fresh_podAsks (m : Dev) : (m.fresh).podAsks = m.podAsks := rfl
@[simp] theorem Dev.fresh_grains (m : Dev) : (m.fresh).grains = m.grains := rfl
@[simp] theorem Dev.fresh_snoops (m : Dev) : (m.fresh).snoops = m.snoops := rfl
@[simp] theorem Dev.fresh_marks (m : Dev) : (m.fresh).marks = m.marks := rfl
@[simp] theorem Dev.fresh_watchFull (m : Dev) : (m.fresh).watchFull = m.watchFull := rfl
@[simp] theorem Dev.fresh_dies (m : Dev) : (m.fresh).dies = m.dies := rfl
@[simp] theorem Dev.fresh_cores (m : Dev) : (m.fresh).cores = m.cores := rfl
@[simp] theorem Dev.fresh_ctxs (m : Dev) : (m.fresh).ctxs = m.ctxs := rfl
@[simp] theorem Dev.fresh_launches (m : Dev) : (m.fresh).launches = m.launches := rfl
@[simp] theorem Dev.fresh_nextLaunch (m : Dev) : (m.fresh).nextLaunch = m.nextLaunch := rfl
@[simp] theorem Dev.fresh_heldWrites (m : Dev) : (m.fresh).heldWrites = m.heldWrites := rfl
@[simp] theorem Dev.fresh_mgmt (m : Dev) : (m.fresh).mgmt = m.mgmt := rfl
@[simp] theorem Dev.fresh_freeCtr (m : Dev) : (m.fresh).freeCtr = m.freeCtr := rfl
@[simp] theorem Dev.fresh_cur (m : Dev) : (m.fresh).cur = m.cur := rfl
@[simp] theorem Dev.fresh_moves (m : Dev) : (m.fresh).moves = m.moves := rfl

/-! ### Threads -/

@[simp] theorem Thread.putReg_area (t : Thread) (i : Nat) (v : Word) : (t.putReg i v).area = t.area := rfl
@[simp] theorem Thread.putReg_pred (t : Thread) (i : Nat) (v : Word) : (t.putReg i v).pred = t.pred := rfl
@[simp] theorem Thread.putReg_pc (t : Thread) (i : Nat) (v : Word) : (t.putReg i v).pc = t.pc := rfl
@[simp] theorem Thread.putReg_stack (t : Thread) (i : Nat) (v : Word) : (t.putReg i v).stack = t.stack := rfl
@[simp] theorem Thread.putReg_step (t : Thread) (i : Nat) (v : Word) : (t.putReg i v).step = t.step := rfl
@[simp] theorem Thread.putReg_st (t : Thread) (i : Nat) (v : Word) : (t.putReg i v).st = t.st := rfl
@[simp] theorem Thread.putReg_yield (t : Thread) (i : Nat) (v : Word) : (t.putReg i v).yield = t.yield := rfl
@[simp] theorem Thread.putReg_sgn (t : Thread) (i : Nat) (v : Word) : (t.putReg i v).sgn = t.sgn := rfl
@[simp] theorem Thread.putReg_wst (t : Thread) (i : Nat) (v : Word) : (t.putReg i v).wst = t.wst := rfl
@[simp] theorem Thread.putReg_tmo (t : Thread) (i : Nat) (v : Word) : (t.putReg i v).tmo = t.tmo := rfl
@[simp] theorem Thread.putReg_signPend (t : Thread) (i : Nat) (v : Word) : (t.putReg i v).signPend = t.signPend := rfl
@[simp] theorem Thread.putReg_pend (t : Thread) (i : Nat) (v : Word) : (t.putReg i v).pend = t.pend := rfl
@[simp] theorem Thread.putReg_parkMark (t : Thread) (i : Nat) (v : Word) : (t.putReg i v).parkMark = t.parkMark := rfl
@[simp] theorem Thread.putReg_waitB (t : Thread) (i : Nat) (v : Word) : (t.putReg i v).waitB = t.waitB := rfl
@[simp] theorem Thread.putReg_held (t : Thread) (i : Nat) (v : Word) : (t.putReg i v).held = t.held := rfl
@[simp] theorem Thread.putReg_watch (t : Thread) (i : Nat) (v : Word) : (t.putReg i v).watch = t.watch := rfl
@[simp] theorem Thread.putReg_knotW (t : Thread) (i : Nat) (v : Word) : (t.putReg i v).knotW = t.knotW := rfl
@[simp] theorem Thread.putReg_evW (t : Thread) (i : Nat) (v : Word) : (t.putReg i v).evW = t.evW := rfl
@[simp] theorem Thread.putReg_acq (t : Thread) (i : Nat) (v : Word) : (t.putReg i v).acq = t.acq := rfl
@[simp] theorem Thread.putReg_unsealed (t : Thread) (i : Nat) (v : Word) : (t.putReg i v).unsealed = t.unsealed := rfl
@[simp] theorem Thread.putReg_nextBatch (t : Thread) (i : Nat) (v : Word) : (t.putReg i v).nextBatch = t.nextBatch := rfl
@[simp] theorem Thread.putReg_batches (t : Thread) (i : Nat) (v : Word) : (t.putReg i v).batches = t.batches := rfl
@[simp] theorem Thread.putReg_age (t : Thread) (i : Nat) (v : Word) : (t.putReg i v).age = t.age := rfl
@[simp] theorem Thread.putReg_overdueAt (t : Thread) (i : Nat) (v : Word) : (t.putReg i v).overdueAt = t.overdueAt := rfl
@[simp] theorem Thread.putReg_cutHeld (t : Thread) (i : Nat) (v : Word) : (t.putReg i v).cutHeld = t.cutHeld := rfl
@[simp] theorem Thread.putReg_comet (t : Thread) (i : Nat) (v : Word) : (t.putReg i v).comet = t.comet := rfl
@[simp] theorem Thread.putReg_inCourse (t : Thread) (i : Nat) (v : Word) : (t.putReg i v).inCourse = t.inCourse := rfl
@[simp] theorem Thread.putReg_stopped (t : Thread) (i : Nat) (v : Word) : (t.putReg i v).stopped = t.stopped := rfl
@[simp] theorem Thread.putReg_narrowRel (t : Thread) (i : Nat) (v : Word) : (t.putReg i v).narrowRel = t.narrowRel := rfl

@[simp] theorem Thread.setReg_area (t : Thread) (i : Nat) (v : Word) : (t.setReg i v).area = t.area := rfl
@[simp] theorem Thread.setReg_pred (t : Thread) (i : Nat) (v : Word) : (t.setReg i v).pred = t.pred := rfl
@[simp] theorem Thread.setReg_pc (t : Thread) (i : Nat) (v : Word) : (t.setReg i v).pc = t.pc := rfl
@[simp] theorem Thread.setReg_stack (t : Thread) (i : Nat) (v : Word) : (t.setReg i v).stack = t.stack := rfl
@[simp] theorem Thread.setReg_step (t : Thread) (i : Nat) (v : Word) : (t.setReg i v).step = t.step := rfl
@[simp] theorem Thread.setReg_st (t : Thread) (i : Nat) (v : Word) : (t.setReg i v).st = t.st := rfl
@[simp] theorem Thread.setReg_yield (t : Thread) (i : Nat) (v : Word) : (t.setReg i v).yield = t.yield := rfl
@[simp] theorem Thread.setReg_sgn (t : Thread) (i : Nat) (v : Word) : (t.setReg i v).sgn = t.sgn := rfl
@[simp] theorem Thread.setReg_wst (t : Thread) (i : Nat) (v : Word) : (t.setReg i v).wst = t.wst := rfl
@[simp] theorem Thread.setReg_tmo (t : Thread) (i : Nat) (v : Word) : (t.setReg i v).tmo = t.tmo := rfl
@[simp] theorem Thread.setReg_signPend (t : Thread) (i : Nat) (v : Word) : (t.setReg i v).signPend = t.signPend := rfl
@[simp] theorem Thread.setReg_parkMark (t : Thread) (i : Nat) (v : Word) : (t.setReg i v).parkMark = t.parkMark := rfl
@[simp] theorem Thread.setReg_waitB (t : Thread) (i : Nat) (v : Word) : (t.setReg i v).waitB = t.waitB := rfl
@[simp] theorem Thread.setReg_held (t : Thread) (i : Nat) (v : Word) : (t.setReg i v).held = t.held := rfl
@[simp] theorem Thread.setReg_watch (t : Thread) (i : Nat) (v : Word) : (t.setReg i v).watch = t.watch := rfl
@[simp] theorem Thread.setReg_knotW (t : Thread) (i : Nat) (v : Word) : (t.setReg i v).knotW = t.knotW := rfl
@[simp] theorem Thread.setReg_evW (t : Thread) (i : Nat) (v : Word) : (t.setReg i v).evW = t.evW := rfl
@[simp] theorem Thread.setReg_acq (t : Thread) (i : Nat) (v : Word) : (t.setReg i v).acq = t.acq := rfl
@[simp] theorem Thread.setReg_unsealed (t : Thread) (i : Nat) (v : Word) : (t.setReg i v).unsealed = t.unsealed := rfl
@[simp] theorem Thread.setReg_nextBatch (t : Thread) (i : Nat) (v : Word) : (t.setReg i v).nextBatch = t.nextBatch := rfl
@[simp] theorem Thread.setReg_batches (t : Thread) (i : Nat) (v : Word) : (t.setReg i v).batches = t.batches := rfl
@[simp] theorem Thread.setReg_age (t : Thread) (i : Nat) (v : Word) : (t.setReg i v).age = t.age := rfl
@[simp] theorem Thread.setReg_overdueAt (t : Thread) (i : Nat) (v : Word) : (t.setReg i v).overdueAt = t.overdueAt := rfl
@[simp] theorem Thread.setReg_cutHeld (t : Thread) (i : Nat) (v : Word) : (t.setReg i v).cutHeld = t.cutHeld := rfl
@[simp] theorem Thread.setReg_comet (t : Thread) (i : Nat) (v : Word) : (t.setReg i v).comet = t.comet := rfl
@[simp] theorem Thread.setReg_inCourse (t : Thread) (i : Nat) (v : Word) : (t.setReg i v).inCourse = t.inCourse := rfl
@[simp] theorem Thread.setReg_stopped (t : Thread) (i : Nat) (v : Word) : (t.setReg i v).stopped = t.stopped := rfl
@[simp] theorem Thread.setReg_narrowRel (t : Thread) (i : Nat) (v : Word) : (t.setReg i v).narrowRel = t.narrowRel := rfl

@[simp] theorem Thread.setPair_area (t : Thread) (i : Nat) (v : DWord) : (t.setPair i v).area = t.area := rfl
@[simp] theorem Thread.setPair_pred (t : Thread) (i : Nat) (v : DWord) : (t.setPair i v).pred = t.pred := rfl
@[simp] theorem Thread.setPair_pc (t : Thread) (i : Nat) (v : DWord) : (t.setPair i v).pc = t.pc := rfl
@[simp] theorem Thread.setPair_stack (t : Thread) (i : Nat) (v : DWord) : (t.setPair i v).stack = t.stack := rfl
@[simp] theorem Thread.setPair_step (t : Thread) (i : Nat) (v : DWord) : (t.setPair i v).step = t.step := rfl
@[simp] theorem Thread.setPair_st (t : Thread) (i : Nat) (v : DWord) : (t.setPair i v).st = t.st := rfl
@[simp] theorem Thread.setPair_yield (t : Thread) (i : Nat) (v : DWord) : (t.setPair i v).yield = t.yield := rfl
@[simp] theorem Thread.setPair_sgn (t : Thread) (i : Nat) (v : DWord) : (t.setPair i v).sgn = t.sgn := rfl
@[simp] theorem Thread.setPair_wst (t : Thread) (i : Nat) (v : DWord) : (t.setPair i v).wst = t.wst := rfl
@[simp] theorem Thread.setPair_tmo (t : Thread) (i : Nat) (v : DWord) : (t.setPair i v).tmo = t.tmo := rfl
@[simp] theorem Thread.setPair_signPend (t : Thread) (i : Nat) (v : DWord) : (t.setPair i v).signPend = t.signPend := rfl
@[simp] theorem Thread.setPair_parkMark (t : Thread) (i : Nat) (v : DWord) : (t.setPair i v).parkMark = t.parkMark := rfl
@[simp] theorem Thread.setPair_waitB (t : Thread) (i : Nat) (v : DWord) : (t.setPair i v).waitB = t.waitB := rfl
@[simp] theorem Thread.setPair_held (t : Thread) (i : Nat) (v : DWord) : (t.setPair i v).held = t.held := rfl
@[simp] theorem Thread.setPair_watch (t : Thread) (i : Nat) (v : DWord) : (t.setPair i v).watch = t.watch := rfl
@[simp] theorem Thread.setPair_knotW (t : Thread) (i : Nat) (v : DWord) : (t.setPair i v).knotW = t.knotW := rfl
@[simp] theorem Thread.setPair_evW (t : Thread) (i : Nat) (v : DWord) : (t.setPair i v).evW = t.evW := rfl
@[simp] theorem Thread.setPair_acq (t : Thread) (i : Nat) (v : DWord) : (t.setPair i v).acq = t.acq := rfl
@[simp] theorem Thread.setPair_unsealed (t : Thread) (i : Nat) (v : DWord) : (t.setPair i v).unsealed = t.unsealed := rfl
@[simp] theorem Thread.setPair_nextBatch (t : Thread) (i : Nat) (v : DWord) : (t.setPair i v).nextBatch = t.nextBatch := rfl
@[simp] theorem Thread.setPair_batches (t : Thread) (i : Nat) (v : DWord) : (t.setPair i v).batches = t.batches := rfl
@[simp] theorem Thread.setPair_age (t : Thread) (i : Nat) (v : DWord) : (t.setPair i v).age = t.age := rfl
@[simp] theorem Thread.setPair_overdueAt (t : Thread) (i : Nat) (v : DWord) : (t.setPair i v).overdueAt = t.overdueAt := rfl
@[simp] theorem Thread.setPair_cutHeld (t : Thread) (i : Nat) (v : DWord) : (t.setPair i v).cutHeld = t.cutHeld := rfl
@[simp] theorem Thread.setPair_comet (t : Thread) (i : Nat) (v : DWord) : (t.setPair i v).comet = t.comet := rfl
@[simp] theorem Thread.setPair_inCourse (t : Thread) (i : Nat) (v : DWord) : (t.setPair i v).inCourse = t.inCourse := rfl
@[simp] theorem Thread.setPair_stopped (t : Thread) (i : Nat) (v : DWord) : (t.setPair i v).stopped = t.stopped := rfl
@[simp] theorem Thread.setPair_narrowRel (t : Thread) (i : Nat) (v : DWord) : (t.setPair i v).narrowRel = t.narrowRel := rfl

@[simp] theorem Thread.setQuad_area (t : Thread) (i : Nat) (v : BitVec 128) : (t.setQuad i v).area = t.area := rfl
@[simp] theorem Thread.setQuad_pred (t : Thread) (i : Nat) (v : BitVec 128) : (t.setQuad i v).pred = t.pred := rfl
@[simp] theorem Thread.setQuad_pc (t : Thread) (i : Nat) (v : BitVec 128) : (t.setQuad i v).pc = t.pc := rfl
@[simp] theorem Thread.setQuad_stack (t : Thread) (i : Nat) (v : BitVec 128) : (t.setQuad i v).stack = t.stack := rfl
@[simp] theorem Thread.setQuad_step (t : Thread) (i : Nat) (v : BitVec 128) : (t.setQuad i v).step = t.step := rfl
@[simp] theorem Thread.setQuad_st (t : Thread) (i : Nat) (v : BitVec 128) : (t.setQuad i v).st = t.st := rfl
@[simp] theorem Thread.setQuad_yield (t : Thread) (i : Nat) (v : BitVec 128) : (t.setQuad i v).yield = t.yield := rfl
@[simp] theorem Thread.setQuad_sgn (t : Thread) (i : Nat) (v : BitVec 128) : (t.setQuad i v).sgn = t.sgn := rfl
@[simp] theorem Thread.setQuad_wst (t : Thread) (i : Nat) (v : BitVec 128) : (t.setQuad i v).wst = t.wst := rfl
@[simp] theorem Thread.setQuad_tmo (t : Thread) (i : Nat) (v : BitVec 128) : (t.setQuad i v).tmo = t.tmo := rfl
@[simp] theorem Thread.setQuad_signPend (t : Thread) (i : Nat) (v : BitVec 128) : (t.setQuad i v).signPend = t.signPend := rfl
@[simp] theorem Thread.setQuad_parkMark (t : Thread) (i : Nat) (v : BitVec 128) : (t.setQuad i v).parkMark = t.parkMark := rfl
@[simp] theorem Thread.setQuad_waitB (t : Thread) (i : Nat) (v : BitVec 128) : (t.setQuad i v).waitB = t.waitB := rfl
@[simp] theorem Thread.setQuad_held (t : Thread) (i : Nat) (v : BitVec 128) : (t.setQuad i v).held = t.held := rfl
@[simp] theorem Thread.setQuad_watch (t : Thread) (i : Nat) (v : BitVec 128) : (t.setQuad i v).watch = t.watch := rfl
@[simp] theorem Thread.setQuad_knotW (t : Thread) (i : Nat) (v : BitVec 128) : (t.setQuad i v).knotW = t.knotW := rfl
@[simp] theorem Thread.setQuad_evW (t : Thread) (i : Nat) (v : BitVec 128) : (t.setQuad i v).evW = t.evW := rfl
@[simp] theorem Thread.setQuad_acq (t : Thread) (i : Nat) (v : BitVec 128) : (t.setQuad i v).acq = t.acq := rfl
@[simp] theorem Thread.setQuad_unsealed (t : Thread) (i : Nat) (v : BitVec 128) : (t.setQuad i v).unsealed = t.unsealed := rfl
@[simp] theorem Thread.setQuad_nextBatch (t : Thread) (i : Nat) (v : BitVec 128) : (t.setQuad i v).nextBatch = t.nextBatch := rfl
@[simp] theorem Thread.setQuad_batches (t : Thread) (i : Nat) (v : BitVec 128) : (t.setQuad i v).batches = t.batches := rfl
@[simp] theorem Thread.setQuad_age (t : Thread) (i : Nat) (v : BitVec 128) : (t.setQuad i v).age = t.age := rfl
@[simp] theorem Thread.setQuad_overdueAt (t : Thread) (i : Nat) (v : BitVec 128) : (t.setQuad i v).overdueAt = t.overdueAt := rfl
@[simp] theorem Thread.setQuad_cutHeld (t : Thread) (i : Nat) (v : BitVec 128) : (t.setQuad i v).cutHeld = t.cutHeld := rfl
@[simp] theorem Thread.setQuad_comet (t : Thread) (i : Nat) (v : BitVec 128) : (t.setQuad i v).comet = t.comet := rfl
@[simp] theorem Thread.setQuad_inCourse (t : Thread) (i : Nat) (v : BitVec 128) : (t.setQuad i v).inCourse = t.inCourse := rfl
@[simp] theorem Thread.setQuad_stopped (t : Thread) (i : Nat) (v : BitVec 128) : (t.setQuad i v).stopped = t.stopped := rfl
@[simp] theorem Thread.setQuad_narrowRel (t : Thread) (i : Nat) (v : BitVec 128) : (t.setQuad i v).narrowRel = t.narrowRel := rfl

@[simp] theorem Thread.addPend_regs (t : Thread) (id : Nat) (d : List Nat) : (t.addPend id d).regs = t.regs := rfl
@[simp] theorem Thread.addPend_area (t : Thread) (id : Nat) (d : List Nat) : (t.addPend id d).area = t.area := rfl
@[simp] theorem Thread.addPend_pred (t : Thread) (id : Nat) (d : List Nat) : (t.addPend id d).pred = t.pred := rfl
@[simp] theorem Thread.addPend_pc (t : Thread) (id : Nat) (d : List Nat) : (t.addPend id d).pc = t.pc := rfl
@[simp] theorem Thread.addPend_stack (t : Thread) (id : Nat) (d : List Nat) : (t.addPend id d).stack = t.stack := rfl
@[simp] theorem Thread.addPend_step (t : Thread) (id : Nat) (d : List Nat) : (t.addPend id d).step = t.step := rfl
@[simp] theorem Thread.addPend_st (t : Thread) (id : Nat) (d : List Nat) : (t.addPend id d).st = t.st := rfl
@[simp] theorem Thread.addPend_yield (t : Thread) (id : Nat) (d : List Nat) : (t.addPend id d).yield = t.yield := rfl
@[simp] theorem Thread.addPend_sgn (t : Thread) (id : Nat) (d : List Nat) : (t.addPend id d).sgn = t.sgn := rfl
@[simp] theorem Thread.addPend_wst (t : Thread) (id : Nat) (d : List Nat) : (t.addPend id d).wst = t.wst := rfl
@[simp] theorem Thread.addPend_tmo (t : Thread) (id : Nat) (d : List Nat) : (t.addPend id d).tmo = t.tmo := rfl
@[simp] theorem Thread.addPend_signPend (t : Thread) (id : Nat) (d : List Nat) : (t.addPend id d).signPend = t.signPend := rfl
@[simp] theorem Thread.addPend_parkMark (t : Thread) (id : Nat) (d : List Nat) : (t.addPend id d).parkMark = t.parkMark := rfl
@[simp] theorem Thread.addPend_waitB (t : Thread) (id : Nat) (d : List Nat) : (t.addPend id d).waitB = t.waitB := rfl
@[simp] theorem Thread.addPend_held (t : Thread) (id : Nat) (d : List Nat) : (t.addPend id d).held = t.held := rfl
@[simp] theorem Thread.addPend_watch (t : Thread) (id : Nat) (d : List Nat) : (t.addPend id d).watch = t.watch := rfl
@[simp] theorem Thread.addPend_knotW (t : Thread) (id : Nat) (d : List Nat) : (t.addPend id d).knotW = t.knotW := rfl
@[simp] theorem Thread.addPend_evW (t : Thread) (id : Nat) (d : List Nat) : (t.addPend id d).evW = t.evW := rfl
@[simp] theorem Thread.addPend_acq (t : Thread) (id : Nat) (d : List Nat) : (t.addPend id d).acq = t.acq := rfl
@[simp] theorem Thread.addPend_unsealed (t : Thread) (id : Nat) (d : List Nat) : (t.addPend id d).unsealed = t.unsealed := rfl
@[simp] theorem Thread.addPend_nextBatch (t : Thread) (id : Nat) (d : List Nat) : (t.addPend id d).nextBatch = t.nextBatch := rfl
@[simp] theorem Thread.addPend_batches (t : Thread) (id : Nat) (d : List Nat) : (t.addPend id d).batches = t.batches := rfl
@[simp] theorem Thread.addPend_age (t : Thread) (id : Nat) (d : List Nat) : (t.addPend id d).age = t.age := rfl
@[simp] theorem Thread.addPend_overdueAt (t : Thread) (id : Nat) (d : List Nat) : (t.addPend id d).overdueAt = t.overdueAt := rfl
@[simp] theorem Thread.addPend_cutHeld (t : Thread) (id : Nat) (d : List Nat) : (t.addPend id d).cutHeld = t.cutHeld := rfl
@[simp] theorem Thread.addPend_comet (t : Thread) (id : Nat) (d : List Nat) : (t.addPend id d).comet = t.comet := rfl
@[simp] theorem Thread.addPend_inCourse (t : Thread) (id : Nat) (d : List Nat) : (t.addPend id d).inCourse = t.inCourse := rfl
@[simp] theorem Thread.addPend_stopped (t : Thread) (id : Nat) (d : List Nat) : (t.addPend id d).stopped = t.stopped := rfl
@[simp] theorem Thread.addPend_narrowRel (t : Thread) (id : Nat) (d : List Nat) : (t.addPend id d).narrowRel = t.narrowRel := rfl

@[simp] theorem Thread.obtain_regs (t : Thread) (id : Nat) (v : List Word) : (t.obtain id v).regs = t.regs := rfl
@[simp] theorem Thread.obtain_area (t : Thread) (id : Nat) (v : List Word) : (t.obtain id v).area = t.area := rfl
@[simp] theorem Thread.obtain_pred (t : Thread) (id : Nat) (v : List Word) : (t.obtain id v).pred = t.pred := rfl
@[simp] theorem Thread.obtain_pc (t : Thread) (id : Nat) (v : List Word) : (t.obtain id v).pc = t.pc := rfl
@[simp] theorem Thread.obtain_stack (t : Thread) (id : Nat) (v : List Word) : (t.obtain id v).stack = t.stack := rfl
@[simp] theorem Thread.obtain_step (t : Thread) (id : Nat) (v : List Word) : (t.obtain id v).step = t.step := rfl
@[simp] theorem Thread.obtain_st (t : Thread) (id : Nat) (v : List Word) : (t.obtain id v).st = t.st := rfl
@[simp] theorem Thread.obtain_yield (t : Thread) (id : Nat) (v : List Word) : (t.obtain id v).yield = t.yield := rfl
@[simp] theorem Thread.obtain_sgn (t : Thread) (id : Nat) (v : List Word) : (t.obtain id v).sgn = t.sgn := rfl
@[simp] theorem Thread.obtain_wst (t : Thread) (id : Nat) (v : List Word) : (t.obtain id v).wst = t.wst := rfl
@[simp] theorem Thread.obtain_tmo (t : Thread) (id : Nat) (v : List Word) : (t.obtain id v).tmo = t.tmo := rfl
@[simp] theorem Thread.obtain_signPend (t : Thread) (id : Nat) (v : List Word) : (t.obtain id v).signPend = t.signPend := rfl
@[simp] theorem Thread.obtain_parkMark (t : Thread) (id : Nat) (v : List Word) : (t.obtain id v).parkMark = t.parkMark := rfl
@[simp] theorem Thread.obtain_waitB (t : Thread) (id : Nat) (v : List Word) : (t.obtain id v).waitB = t.waitB := rfl
@[simp] theorem Thread.obtain_held (t : Thread) (id : Nat) (v : List Word) : (t.obtain id v).held = t.held := rfl
@[simp] theorem Thread.obtain_watch (t : Thread) (id : Nat) (v : List Word) : (t.obtain id v).watch = t.watch := rfl
@[simp] theorem Thread.obtain_knotW (t : Thread) (id : Nat) (v : List Word) : (t.obtain id v).knotW = t.knotW := rfl
@[simp] theorem Thread.obtain_evW (t : Thread) (id : Nat) (v : List Word) : (t.obtain id v).evW = t.evW := rfl
@[simp] theorem Thread.obtain_acq (t : Thread) (id : Nat) (v : List Word) : (t.obtain id v).acq = t.acq := rfl
@[simp] theorem Thread.obtain_unsealed (t : Thread) (id : Nat) (v : List Word) : (t.obtain id v).unsealed = t.unsealed := rfl
@[simp] theorem Thread.obtain_nextBatch (t : Thread) (id : Nat) (v : List Word) : (t.obtain id v).nextBatch = t.nextBatch := rfl
@[simp] theorem Thread.obtain_batches (t : Thread) (id : Nat) (v : List Word) : (t.obtain id v).batches = t.batches := rfl
@[simp] theorem Thread.obtain_age (t : Thread) (id : Nat) (v : List Word) : (t.obtain id v).age = t.age := rfl
@[simp] theorem Thread.obtain_overdueAt (t : Thread) (id : Nat) (v : List Word) : (t.obtain id v).overdueAt = t.overdueAt := rfl
@[simp] theorem Thread.obtain_cutHeld (t : Thread) (id : Nat) (v : List Word) : (t.obtain id v).cutHeld = t.cutHeld := rfl
@[simp] theorem Thread.obtain_comet (t : Thread) (id : Nat) (v : List Word) : (t.obtain id v).comet = t.comet := rfl
@[simp] theorem Thread.obtain_inCourse (t : Thread) (id : Nat) (v : List Word) : (t.obtain id v).inCourse = t.inCourse := rfl
@[simp] theorem Thread.obtain_stopped (t : Thread) (id : Nat) (v : List Word) : (t.obtain id v).stopped = t.stopped := rfl
@[simp] theorem Thread.obtain_narrowRel (t : Thread) (id : Nat) (v : List Word) : (t.obtain id v).narrowRel = t.narrowRel := rfl

@[simp] theorem Thread.park_regs (t : Thread) (pc : DWord) (st : TState) : (t.park pc st).regs = t.regs := rfl
@[simp] theorem Thread.park_area (t : Thread) (pc : DWord) (st : TState) : (t.park pc st).area = t.area := rfl
@[simp] theorem Thread.park_pred (t : Thread) (pc : DWord) (st : TState) : (t.park pc st).pred = t.pred := rfl
@[simp] theorem Thread.park_stack (t : Thread) (pc : DWord) (st : TState) : (t.park pc st).stack = t.stack := rfl
@[simp] theorem Thread.park_step (t : Thread) (pc : DWord) (st : TState) : (t.park pc st).step = t.step := rfl
@[simp] theorem Thread.park_yield (t : Thread) (pc : DWord) (st : TState) : (t.park pc st).yield = t.yield := rfl
@[simp] theorem Thread.park_sgn (t : Thread) (pc : DWord) (st : TState) : (t.park pc st).sgn = t.sgn := rfl
@[simp] theorem Thread.park_wst (t : Thread) (pc : DWord) (st : TState) : (t.park pc st).wst = t.wst := rfl
@[simp] theorem Thread.park_tmo (t : Thread) (pc : DWord) (st : TState) : (t.park pc st).tmo = t.tmo := rfl
@[simp] theorem Thread.park_signPend (t : Thread) (pc : DWord) (st : TState) : (t.park pc st).signPend = t.signPend := rfl
@[simp] theorem Thread.park_pend (t : Thread) (pc : DWord) (st : TState) : (t.park pc st).pend = t.pend := rfl
@[simp] theorem Thread.park_parkMark (t : Thread) (pc : DWord) (st : TState) : (t.park pc st).parkMark = t.parkMark := rfl
@[simp] theorem Thread.park_waitB (t : Thread) (pc : DWord) (st : TState) : (t.park pc st).waitB = t.waitB := rfl
@[simp] theorem Thread.park_held (t : Thread) (pc : DWord) (st : TState) : (t.park pc st).held = t.held := rfl
@[simp] theorem Thread.park_watch (t : Thread) (pc : DWord) (st : TState) : (t.park pc st).watch = t.watch := rfl
@[simp] theorem Thread.park_knotW (t : Thread) (pc : DWord) (st : TState) : (t.park pc st).knotW = t.knotW := rfl
@[simp] theorem Thread.park_evW (t : Thread) (pc : DWord) (st : TState) : (t.park pc st).evW = t.evW := rfl
@[simp] theorem Thread.park_acq (t : Thread) (pc : DWord) (st : TState) : (t.park pc st).acq = t.acq := rfl
@[simp] theorem Thread.park_unsealed (t : Thread) (pc : DWord) (st : TState) : (t.park pc st).unsealed = t.unsealed := rfl
@[simp] theorem Thread.park_nextBatch (t : Thread) (pc : DWord) (st : TState) : (t.park pc st).nextBatch = t.nextBatch := rfl
@[simp] theorem Thread.park_batches (t : Thread) (pc : DWord) (st : TState) : (t.park pc st).batches = t.batches := rfl
@[simp] theorem Thread.park_age (t : Thread) (pc : DWord) (st : TState) : (t.park pc st).age = t.age := rfl
@[simp] theorem Thread.park_overdueAt (t : Thread) (pc : DWord) (st : TState) : (t.park pc st).overdueAt = t.overdueAt := rfl
@[simp] theorem Thread.park_cutHeld (t : Thread) (pc : DWord) (st : TState) : (t.park pc st).cutHeld = t.cutHeld := rfl
@[simp] theorem Thread.park_comet (t : Thread) (pc : DWord) (st : TState) : (t.park pc st).comet = t.comet := rfl
@[simp] theorem Thread.park_stopped (t : Thread) (pc : DWord) (st : TState) : (t.park pc st).stopped = t.stopped := rfl
@[simp] theorem Thread.park_narrowRel (t : Thread) (pc : DWord) (st : TState) : (t.park pc st).narrowRel = t.narrowRel := rfl

@[simp] theorem Thread.mark_regs (t : Thread) (c : Ctl) : (t.mark c).regs = t.regs := by unfold Thread.mark; split <;> rfl
@[simp] theorem Thread.mark_area (t : Thread) (c : Ctl) : (t.mark c).area = t.area := by unfold Thread.mark; split <;> rfl
@[simp] theorem Thread.mark_pred (t : Thread) (c : Ctl) : (t.mark c).pred = t.pred := by unfold Thread.mark; split <;> rfl
@[simp] theorem Thread.mark_pc (t : Thread) (c : Ctl) : (t.mark c).pc = t.pc := by unfold Thread.mark; split <;> rfl
@[simp] theorem Thread.mark_stack (t : Thread) (c : Ctl) : (t.mark c).stack = t.stack := by unfold Thread.mark; split <;> rfl
@[simp] theorem Thread.mark_step (t : Thread) (c : Ctl) : (t.mark c).step = t.step := by unfold Thread.mark; split <;> rfl
@[simp] theorem Thread.mark_st (t : Thread) (c : Ctl) : (t.mark c).st = t.st := by unfold Thread.mark; split <;> rfl
@[simp] theorem Thread.mark_yield (t : Thread) (c : Ctl) : (t.mark c).yield = t.yield := by unfold Thread.mark; split <;> rfl
@[simp] theorem Thread.mark_sgn (t : Thread) (c : Ctl) : (t.mark c).sgn = t.sgn := by unfold Thread.mark; split <;> rfl
@[simp] theorem Thread.mark_wst (t : Thread) (c : Ctl) : (t.mark c).wst = t.wst := by unfold Thread.mark; split <;> rfl
@[simp] theorem Thread.mark_tmo (t : Thread) (c : Ctl) : (t.mark c).tmo = t.tmo := by unfold Thread.mark; split <;> rfl
@[simp] theorem Thread.mark_signPend (t : Thread) (c : Ctl) : (t.mark c).signPend = t.signPend := by unfold Thread.mark; split <;> rfl
@[simp] theorem Thread.mark_pend (t : Thread) (c : Ctl) : (t.mark c).pend = t.pend := by unfold Thread.mark; split <;> rfl
@[simp] theorem Thread.mark_waitB (t : Thread) (c : Ctl) : (t.mark c).waitB = t.waitB := by unfold Thread.mark; split <;> rfl
@[simp] theorem Thread.mark_held (t : Thread) (c : Ctl) : (t.mark c).held = t.held := by unfold Thread.mark; split <;> rfl
@[simp] theorem Thread.mark_watch (t : Thread) (c : Ctl) : (t.mark c).watch = t.watch := by unfold Thread.mark; split <;> rfl
@[simp] theorem Thread.mark_knotW (t : Thread) (c : Ctl) : (t.mark c).knotW = t.knotW := by unfold Thread.mark; split <;> rfl
@[simp] theorem Thread.mark_evW (t : Thread) (c : Ctl) : (t.mark c).evW = t.evW := by unfold Thread.mark; split <;> rfl
@[simp] theorem Thread.mark_acq (t : Thread) (c : Ctl) : (t.mark c).acq = t.acq := by unfold Thread.mark; split <;> rfl
@[simp] theorem Thread.mark_unsealed (t : Thread) (c : Ctl) : (t.mark c).unsealed = t.unsealed := by unfold Thread.mark; split <;> rfl
@[simp] theorem Thread.mark_nextBatch (t : Thread) (c : Ctl) : (t.mark c).nextBatch = t.nextBatch := by unfold Thread.mark; split <;> rfl
@[simp] theorem Thread.mark_batches (t : Thread) (c : Ctl) : (t.mark c).batches = t.batches := by unfold Thread.mark; split <;> rfl
@[simp] theorem Thread.mark_age (t : Thread) (c : Ctl) : (t.mark c).age = t.age := by unfold Thread.mark; split <;> rfl
@[simp] theorem Thread.mark_overdueAt (t : Thread) (c : Ctl) : (t.mark c).overdueAt = t.overdueAt := by unfold Thread.mark; split <;> rfl
@[simp] theorem Thread.mark_cutHeld (t : Thread) (c : Ctl) : (t.mark c).cutHeld = t.cutHeld := by unfold Thread.mark; split <;> rfl
@[simp] theorem Thread.mark_comet (t : Thread) (c : Ctl) : (t.mark c).comet = t.comet := by unfold Thread.mark; split <;> rfl
@[simp] theorem Thread.mark_inCourse (t : Thread) (c : Ctl) : (t.mark c).inCourse = t.inCourse := by unfold Thread.mark; split <;> rfl
@[simp] theorem Thread.mark_stopped (t : Thread) (c : Ctl) : (t.mark c).stopped = t.stopped := by unfold Thread.mark; split <;> rfl
@[simp] theorem Thread.mark_narrowRel (t : Thread) (c : Ctl) : (t.mark c).narrowRel = t.narrowRel := by unfold Thread.mark; split <;> rfl

@[simp] theorem Thread.setPred_regs (t : Thread) (i : Nat) (v : Bool) : (t.setPred i v).regs = t.regs := by unfold Thread.setPred; split <;> rfl
@[simp] theorem Thread.setPred_area (t : Thread) (i : Nat) (v : Bool) : (t.setPred i v).area = t.area := by unfold Thread.setPred; split <;> rfl
@[simp] theorem Thread.setPred_pc (t : Thread) (i : Nat) (v : Bool) : (t.setPred i v).pc = t.pc := by unfold Thread.setPred; split <;> rfl
@[simp] theorem Thread.setPred_stack (t : Thread) (i : Nat) (v : Bool) : (t.setPred i v).stack = t.stack := by unfold Thread.setPred; split <;> rfl
@[simp] theorem Thread.setPred_step (t : Thread) (i : Nat) (v : Bool) : (t.setPred i v).step = t.step := by unfold Thread.setPred; split <;> rfl
@[simp] theorem Thread.setPred_st (t : Thread) (i : Nat) (v : Bool) : (t.setPred i v).st = t.st := by unfold Thread.setPred; split <;> rfl
@[simp] theorem Thread.setPred_yield (t : Thread) (i : Nat) (v : Bool) : (t.setPred i v).yield = t.yield := by unfold Thread.setPred; split <;> rfl
@[simp] theorem Thread.setPred_sgn (t : Thread) (i : Nat) (v : Bool) : (t.setPred i v).sgn = t.sgn := by unfold Thread.setPred; split <;> rfl
@[simp] theorem Thread.setPred_wst (t : Thread) (i : Nat) (v : Bool) : (t.setPred i v).wst = t.wst := by unfold Thread.setPred; split <;> rfl
@[simp] theorem Thread.setPred_tmo (t : Thread) (i : Nat) (v : Bool) : (t.setPred i v).tmo = t.tmo := by unfold Thread.setPred; split <;> rfl
@[simp] theorem Thread.setPred_signPend (t : Thread) (i : Nat) (v : Bool) : (t.setPred i v).signPend = t.signPend := by unfold Thread.setPred; split <;> rfl
@[simp] theorem Thread.setPred_pend (t : Thread) (i : Nat) (v : Bool) : (t.setPred i v).pend = t.pend := by unfold Thread.setPred; split <;> rfl
@[simp] theorem Thread.setPred_parkMark (t : Thread) (i : Nat) (v : Bool) : (t.setPred i v).parkMark = t.parkMark := by unfold Thread.setPred; split <;> rfl
@[simp] theorem Thread.setPred_waitB (t : Thread) (i : Nat) (v : Bool) : (t.setPred i v).waitB = t.waitB := by unfold Thread.setPred; split <;> rfl
@[simp] theorem Thread.setPred_held (t : Thread) (i : Nat) (v : Bool) : (t.setPred i v).held = t.held := by unfold Thread.setPred; split <;> rfl
@[simp] theorem Thread.setPred_watch (t : Thread) (i : Nat) (v : Bool) : (t.setPred i v).watch = t.watch := by unfold Thread.setPred; split <;> rfl
@[simp] theorem Thread.setPred_knotW (t : Thread) (i : Nat) (v : Bool) : (t.setPred i v).knotW = t.knotW := by unfold Thread.setPred; split <;> rfl
@[simp] theorem Thread.setPred_evW (t : Thread) (i : Nat) (v : Bool) : (t.setPred i v).evW = t.evW := by unfold Thread.setPred; split <;> rfl
@[simp] theorem Thread.setPred_acq (t : Thread) (i : Nat) (v : Bool) : (t.setPred i v).acq = t.acq := by unfold Thread.setPred; split <;> rfl
@[simp] theorem Thread.setPred_unsealed (t : Thread) (i : Nat) (v : Bool) : (t.setPred i v).unsealed = t.unsealed := by unfold Thread.setPred; split <;> rfl
@[simp] theorem Thread.setPred_nextBatch (t : Thread) (i : Nat) (v : Bool) : (t.setPred i v).nextBatch = t.nextBatch := by unfold Thread.setPred; split <;> rfl
@[simp] theorem Thread.setPred_batches (t : Thread) (i : Nat) (v : Bool) : (t.setPred i v).batches = t.batches := by unfold Thread.setPred; split <;> rfl
@[simp] theorem Thread.setPred_age (t : Thread) (i : Nat) (v : Bool) : (t.setPred i v).age = t.age := by unfold Thread.setPred; split <;> rfl
@[simp] theorem Thread.setPred_overdueAt (t : Thread) (i : Nat) (v : Bool) : (t.setPred i v).overdueAt = t.overdueAt := by unfold Thread.setPred; split <;> rfl
@[simp] theorem Thread.setPred_cutHeld (t : Thread) (i : Nat) (v : Bool) : (t.setPred i v).cutHeld = t.cutHeld := by unfold Thread.setPred; split <;> rfl
@[simp] theorem Thread.setPred_comet (t : Thread) (i : Nat) (v : Bool) : (t.setPred i v).comet = t.comet := by unfold Thread.setPred; split <;> rfl
@[simp] theorem Thread.setPred_inCourse (t : Thread) (i : Nat) (v : Bool) : (t.setPred i v).inCourse = t.inCourse := by unfold Thread.setPred; split <;> rfl
@[simp] theorem Thread.setPred_stopped (t : Thread) (i : Nat) (v : Bool) : (t.setPred i v).stopped = t.stopped := by unfold Thread.setPred; split <;> rfl
@[simp] theorem Thread.setPred_narrowRel (t : Thread) (i : Nat) (v : Bool) : (t.setPred i v).narrowRel = t.narrowRel := by unfold Thread.setPred; split <;> rfl

@[simp] theorem Thread.settle_regs (t : Thread) : t.settle.regs = t.regs := by unfold Thread.settle; split <;> rfl
@[simp] theorem Thread.settle_area (t : Thread) : t.settle.area = t.area := by unfold Thread.settle; split <;> rfl
@[simp] theorem Thread.settle_pred (t : Thread) : t.settle.pred = t.pred := by unfold Thread.settle; split <;> rfl
@[simp] theorem Thread.settle_pc (t : Thread) : t.settle.pc = t.pc := by unfold Thread.settle; split <;> rfl
@[simp] theorem Thread.settle_stack (t : Thread) : t.settle.stack = t.stack := by unfold Thread.settle; split <;> rfl
@[simp] theorem Thread.settle_step (t : Thread) : t.settle.step = t.step := by unfold Thread.settle; split <;> rfl
@[simp] theorem Thread.settle_yield (t : Thread) : t.settle.yield = t.yield := by unfold Thread.settle; split <;> rfl
@[simp] theorem Thread.settle_sgn (t : Thread) : t.settle.sgn = t.sgn := by unfold Thread.settle; split <;> rfl
@[simp] theorem Thread.settle_wst (t : Thread) : t.settle.wst = t.wst := by unfold Thread.settle; split <;> rfl
@[simp] theorem Thread.settle_tmo (t : Thread) : t.settle.tmo = t.tmo := by unfold Thread.settle; split <;> rfl
@[simp] theorem Thread.settle_signPend (t : Thread) : t.settle.signPend = t.signPend := by unfold Thread.settle; split <;> rfl
@[simp] theorem Thread.settle_pend (t : Thread) : t.settle.pend = t.pend := by unfold Thread.settle; split <;> rfl
@[simp] theorem Thread.settle_held (t : Thread) : t.settle.held = t.held := by unfold Thread.settle; split <;> rfl
@[simp] theorem Thread.settle_watch (t : Thread) : t.settle.watch = t.watch := by unfold Thread.settle; split <;> rfl
@[simp] theorem Thread.settle_knotW (t : Thread) : t.settle.knotW = t.knotW := by unfold Thread.settle; split <;> rfl
@[simp] theorem Thread.settle_evW (t : Thread) : t.settle.evW = t.evW := by unfold Thread.settle; split <;> rfl
@[simp] theorem Thread.settle_acq (t : Thread) : t.settle.acq = t.acq := by unfold Thread.settle; split <;> rfl
@[simp] theorem Thread.settle_unsealed (t : Thread) : t.settle.unsealed = t.unsealed := by unfold Thread.settle; split <;> rfl
@[simp] theorem Thread.settle_nextBatch (t : Thread) : t.settle.nextBatch = t.nextBatch := by unfold Thread.settle; split <;> rfl
@[simp] theorem Thread.settle_batches (t : Thread) : t.settle.batches = t.batches := by unfold Thread.settle; split <;> rfl
@[simp] theorem Thread.settle_age (t : Thread) : t.settle.age = t.age := by unfold Thread.settle; split <;> rfl
@[simp] theorem Thread.settle_overdueAt (t : Thread) : t.settle.overdueAt = t.overdueAt := by unfold Thread.settle; split <;> rfl
@[simp] theorem Thread.settle_cutHeld (t : Thread) : t.settle.cutHeld = t.cutHeld := by unfold Thread.settle; split <;> rfl
@[simp] theorem Thread.settle_comet (t : Thread) : t.settle.comet = t.comet := by unfold Thread.settle; split <;> rfl
@[simp] theorem Thread.settle_inCourse (t : Thread) : t.settle.inCourse = t.inCourse := by unfold Thread.settle; split <;> rfl
@[simp] theorem Thread.settle_stopped (t : Thread) : t.settle.stopped = t.stopped := by unfold Thread.settle; split <;> rfl
@[simp] theorem Thread.settle_narrowRel (t : Thread) : t.settle.narrowRel = t.narrowRel := by unfold Thread.settle; split <;> rfl

@[simp] theorem Thread.leave_regs (t : Thread) (pc : DWord) : (t.leave pc).regs = t.regs := by simp [Thread.leave]
@[simp] theorem Thread.leave_area (t : Thread) (pc : DWord) : (t.leave pc).area = t.area := by simp [Thread.leave]
@[simp] theorem Thread.leave_pred (t : Thread) (pc : DWord) : (t.leave pc).pred = t.pred := by simp [Thread.leave]
@[simp] theorem Thread.leave_stack (t : Thread) (pc : DWord) : (t.leave pc).stack = t.stack := by simp [Thread.leave]
@[simp] theorem Thread.leave_step (t : Thread) (pc : DWord) : (t.leave pc).step = t.step := by simp [Thread.leave]
@[simp] theorem Thread.leave_yield (t : Thread) (pc : DWord) : (t.leave pc).yield = t.yield := by simp [Thread.leave]
@[simp] theorem Thread.leave_sgn (t : Thread) (pc : DWord) : (t.leave pc).sgn = t.sgn := by simp [Thread.leave]
@[simp] theorem Thread.leave_wst (t : Thread) (pc : DWord) : (t.leave pc).wst = t.wst := by simp [Thread.leave]
@[simp] theorem Thread.leave_tmo (t : Thread) (pc : DWord) : (t.leave pc).tmo = t.tmo := by simp [Thread.leave]
@[simp] theorem Thread.leave_signPend (t : Thread) (pc : DWord) : (t.leave pc).signPend = t.signPend := by simp [Thread.leave]
@[simp] theorem Thread.leave_pend (t : Thread) (pc : DWord) : (t.leave pc).pend = t.pend := by simp [Thread.leave]
@[simp] theorem Thread.leave_held (t : Thread) (pc : DWord) : (t.leave pc).held = t.held := by simp [Thread.leave]
@[simp] theorem Thread.leave_watch (t : Thread) (pc : DWord) : (t.leave pc).watch = t.watch := by simp [Thread.leave]
@[simp] theorem Thread.leave_knotW (t : Thread) (pc : DWord) : (t.leave pc).knotW = t.knotW := by simp [Thread.leave]
@[simp] theorem Thread.leave_evW (t : Thread) (pc : DWord) : (t.leave pc).evW = t.evW := by simp [Thread.leave]
@[simp] theorem Thread.leave_acq (t : Thread) (pc : DWord) : (t.leave pc).acq = t.acq := by simp [Thread.leave]
@[simp] theorem Thread.leave_unsealed (t : Thread) (pc : DWord) : (t.leave pc).unsealed = t.unsealed := by simp [Thread.leave]
@[simp] theorem Thread.leave_nextBatch (t : Thread) (pc : DWord) : (t.leave pc).nextBatch = t.nextBatch := by simp [Thread.leave]
@[simp] theorem Thread.leave_batches (t : Thread) (pc : DWord) : (t.leave pc).batches = t.batches := by simp [Thread.leave]
@[simp] theorem Thread.leave_age (t : Thread) (pc : DWord) : (t.leave pc).age = t.age := by simp [Thread.leave]
@[simp] theorem Thread.leave_overdueAt (t : Thread) (pc : DWord) : (t.leave pc).overdueAt = t.overdueAt := by simp [Thread.leave]
@[simp] theorem Thread.leave_cutHeld (t : Thread) (pc : DWord) : (t.leave pc).cutHeld = t.cutHeld := by simp [Thread.leave]
@[simp] theorem Thread.leave_comet (t : Thread) (pc : DWord) : (t.leave pc).comet = t.comet := by simp [Thread.leave]
@[simp] theorem Thread.leave_stopped (t : Thread) (pc : DWord) : (t.leave pc).stopped = t.stopped := by simp [Thread.leave]
@[simp] theorem Thread.leave_narrowRel (t : Thread) (pc : DWord) : (t.leave pc).narrowRel = t.narrowRel := by simp [Thread.leave]
@[simp] theorem Thread.leave_pc (t : Thread) (pc : DWord) : (t.leave pc).pc = pc := by simp [Thread.leave]
@[simp] theorem Thread.leave_inCourse (t : Thread) (pc : DWord) : (t.leave pc).inCourse = false := by simp [Thread.leave]

/-! ### Blocks and contexts -/

@[simp] theorem Block.modThread_id (b : Block) (s : Nat) (f : Thread → Thread) : (b.modThread s f).id = b.id := rfl
@[simp] theorem Block.modThread_asid (b : Block) (s : Nat) (f : Thread → Thread) : (b.modThread s f).asid = b.asid := rfl
@[simp] theorem Block.modThread_launch (b : Block) (s : Nat) (f : Thread → Thread) : (b.modThread s f).launch = b.launch := rfl
@[simp] theorem Block.modThread_index (b : Block) (s : Nat) (f : Thread → Thread) : (b.modThread s f).index = b.index := rfl
@[simp] theorem Block.modThread_rec_ (b : Block) (s : Nat) (f : Thread → Thread) : (b.modThread s f).rec_ = b.rec_ := rfl
@[simp] theorem Block.modThread_bidx (b : Block) (s : Nat) (f : Thread → Thread) : (b.modThread s f).bidx = b.bidx := rfl
@[simp] theorem Block.modThread_bidy (b : Block) (s : Nat) (f : Thread → Thread) : (b.modThread s f).bidy = b.bidy := rfl
@[simp] theorem Block.modThread_bidz (b : Block) (s : Nat) (f : Thread → Thread) : (b.modThread s f).bidz = b.bidz := rfl
@[simp] theorem Block.modThread_image (b : Block) (s : Nat) (f : Thread → Thread) : (b.modThread s f).image = b.image := rfl
@[simp] theorem Block.modThread_prio (b : Block) (s : Nat) (f : Thread → Thread) : (b.modThread s f).prio = b.prio := rfl
@[simp] theorem Block.modThread_winBase (b : Block) (s : Nat) (f : Thread → Thread) : (b.modThread s f).winBase = b.winBase := rfl
@[simp] theorem Block.modThread_winSize (b : Block) (s : Nat) (f : Thread → Thread) : (b.modThread s f).winSize = b.winSize := rfl
@[simp] theorem Block.modThread_bst (b : Block) (s : Nat) (f : Thread → Thread) : (b.modThread s f).bst = b.bst := rfl
@[simp] theorem Block.modThread_rstLabel (b : Block) (s : Nat) (f : Thread → Thread) : (b.modThread s f).rstLabel = b.rstLabel := rfl
@[simp] theorem Block.modThread_rstMask (b : Block) (s : Nat) (f : Thread → Thread) : (b.modThread s f).rstMask = b.rstMask := rfl
@[simp] theorem Block.modThread_restarts (b : Block) (s : Nat) (f : Thread → Thread) : (b.modThread s f).restarts = b.restarts := rfl
@[simp] theorem Block.modThread_mkp (b : Block) (s : Nat) (f : Thread → Thread) : (b.modThread s f).mkp = b.mkp := rfl
@[simp] theorem Block.modThread_tiles (b : Block) (s : Nat) (f : Thread → Thread) : (b.modThread s f).tiles = b.tiles := rfl
@[simp] theorem Block.modThread_plys (b : Block) (s : Nat) (f : Thread → Thread) : (b.modThread s f).plys = b.plys := rfl
@[simp] theorem Block.modThread_saved (b : Block) (s : Nat) (f : Thread → Thread) : (b.modThread s f).saved = b.saved := rfl
@[simp] theorem Block.modThread_stitches (b : Block) (s : Nat) (f : Thread → Thread) : (b.modThread s f).stitches = b.stitches := rfl
@[simp] theorem Block.modThread_cometCount (b : Block) (s : Nat) (f : Thread → Thread) : (b.modThread s f).cometCount = b.cometCount := rfl
@[simp] theorem Block.modThread_todo (b : Block) (s : Nat) (f : Thread → Thread) : (b.modThread s f).todo = b.todo := rfl
@[simp] theorem Block.modThread_started (b : Block) (s : Nat) (f : Thread → Thread) : (b.modThread s f).started = b.started := rfl
@[simp] theorem Block.modThread_abandoned (b : Block) (s : Nat) (f : Thread → Thread) : (b.modThread s f).abandoned = b.abandoned := rfl
@[simp] theorem Block.modThread_skid (b : Block) (s : Nat) (f : Thread → Thread) : (b.modThread s f).skid = b.skid := rfl
@[simp] theorem Block.modThread_imaged (b : Block) (s : Nat) (f : Thread → Thread) : (b.modThread s f).imaged = b.imaged := rfl
@[simp] theorem Block.modThread_passed (b : Block) (s : Nat) (f : Thread → Thread) : (b.modThread s f).passed = b.passed := rfl
@[simp] theorem Block.modThread_asked (b : Block) (s : Nat) (f : Thread → Thread) : (b.modThread s f).asked = b.asked := rfl

@[simp] theorem Core.modBlock_cyc (c : Core) (b : Nat) (f : Block → Block) : (c.modBlock b f).cyc = c.cyc := rfl
@[simp] theorem Core.modBlock_stash (c : Core) (b : Nat) (f : Block → Block) : (c.modBlock b f).stash = c.stash := rfl
@[simp] theorem Core.modBlock_skeins (c : Core) (b : Nat) (f : Block → Block) : (c.modBlock b f).skeins = c.skeins := rfl
@[simp] theorem Core.modBlock_tiles (c : Core) (b : Nat) (f : Block → Block) : (c.modBlock b f).tiles = c.tiles := rfl
@[simp] theorem Core.modBlock_tileUndef (c : Core) (b : Nat) (f : Block → Block) : (c.modBlock b f).tileUndef = c.tileUndef := rfl
@[simp] theorem Core.modBlock_tileUse (c : Core) (b : Nat) (f : Block → Block) : (c.modBlock b f).tileUse = c.tileUse := rfl
@[simp] theorem Core.modBlock_plyStore (c : Core) (b : Nat) (f : Block → Block) : (c.modBlock b f).plyStore = c.plyStore := rfl
@[simp] theorem Core.modBlock_matQ (c : Core) (b : Nat) (f : Block → Block) : (c.modBlock b f).matQ = c.matQ := rfl
@[simp] theorem Core.modBlock_matRun (c : Core) (b : Nat) (f : Block → Block) : (c.modBlock b f).matRun = c.matRun := rfl
@[simp] theorem Core.modBlock_accWaits (c : Core) (b : Nat) (f : Block → Block) : (c.modBlock b f).accWaits = c.accWaits := rfl
@[simp] theorem Core.modBlock_sweepQ (c : Core) (b : Nat) (f : Block → Block) : (c.modBlock b f).sweepQ = c.sweepQ := rfl
@[simp] theorem Core.modBlock_sweepRun (c : Core) (b : Nat) (f : Block → Block) : (c.modBlock b f).sweepRun = c.sweepRun := rfl
@[simp] theorem Core.modBlock_sweepAside (c : Core) (b : Nat) (f : Block → Block) : (c.modBlock b f).sweepAside = c.sweepAside := rfl
@[simp] theorem Core.modBlock_plyQ (c : Core) (b : Nat) (f : Block → Block) : (c.modBlock b f).plyQ = c.plyQ := rfl
@[simp] theorem Core.modBlock_plyRun (c : Core) (b : Nat) (f : Block → Block) : (c.modBlock b f).plyRun = c.plyRun := rfl
@[simp] theorem Core.modBlock_xferQ (c : Core) (b : Nat) (f : Block → Block) : (c.modBlock b f).xferQ = c.xferQ := rfl
@[simp] theorem Core.modBlock_copies (c : Core) (b : Nat) (f : Block → Block) : (c.modBlock b f).copies = c.copies := rfl
@[simp] theorem Core.modBlock_comets (c : Core) (b : Nat) (f : Block → Block) : (c.modBlock b f).comets = c.comets := rfl
@[simp] theorem Core.modBlock_cometTurn (c : Core) (b : Nat) (f : Block → Block) : (c.modBlock b f).cometTurn = c.cometTurn := rfl
@[simp] theorem Core.modBlock_prefs (c : Core) (b : Nat) (f : Block → Block) : (c.modBlock b f).prefs = c.prefs := rfl
@[simp] theorem Core.modBlock_accs (c : Core) (b : Nat) (f : Block → Block) : (c.modBlock b f).accs = c.accs := rfl
@[simp] theorem Core.modBlock_out (c : Core) (b : Nat) (f : Block → Block) : (c.modBlock b f).out = c.out := rfl
@[simp] theorem Core.modBlock_missed (c : Core) (b : Nat) (f : Block → Block) : (c.modBlock b f).missed = c.missed := rfl
@[simp] theorem Core.modBlock_tlb (c : Core) (b : Nat) (f : Block → Block) : (c.modBlock b f).tlb = c.tlb := rfl
@[simp] theorem Core.modBlock_l1 (c : Core) (b : Nat) (f : Block → Block) : (c.modBlock b f).l1 = c.l1 := rfl
@[simp] theorem Core.modBlock_strm (c : Core) (b : Nat) (f : Block → Block) : (c.modBlock b f).strm = c.strm := rfl
@[simp] theorem Core.modBlock_ibuf (c : Core) (b : Nat) (f : Block → Block) : (c.modBlock b f).ibuf = c.ibuf := rfl
@[simp] theorem Core.modBlock_lines (c : Core) (b : Nat) (f : Block → Block) : (c.modBlock b f).lines = c.lines := rfl
@[simp] theorem Core.modBlock_courses (c : Core) (b : Nat) (f : Block → Block) : (c.modBlock b f).courses = c.courses := rfl
@[simp] theorem Core.modBlock_hold (c : Core) (b : Nat) (f : Block → Block) : (c.modBlock b f).hold = c.hold := rfl
@[simp] theorem Core.modBlock_turn (c : Core) (b : Nat) (f : Block → Block) : (c.modBlock b f).turn = c.turn := rfl
@[simp] theorem Core.modBlock_gated (c : Core) (b : Nat) (f : Block → Block) : (c.modBlock b f).gated = c.gated := rfl

@[simp] theorem Context.raise_asid (c : Context) (f : FaultInfo) : (c.raise f).asid = c.asid := rfl
@[simp] theorem Context.raise_pmask (c : Context) (f : FaultInfo) : (c.raise f).pmask = c.pmask := rfl
@[simp] theorem Context.raise_pcap (c : Context) (f : FaultInfo) : (c.raise f).pcap = c.pcap := rfl
@[simp] theorem Context.raise_pool (c : Context) (f : FaultInfo) : (c.raise f).pool = c.pool := rfl
@[simp] theorem Context.raise_imgn (c : Context) (f : FaultInfo) : (c.raise f).imgn = c.imgn := rfl
@[simp] theorem Context.raise_stat (c : Context) (f : FaultInfo) : (c.raise f).stat = c.stat := rfl
@[simp] theorem Context.raise_st (c : Context) (f : FaultInfo) : (c.raise f).st = c.st := rfl
@[simp] theorem Context.raise_main (c : Context) (f : FaultInfo) : (c.raise f).main = c.main := rfl
@[simp] theorem Context.raise_dev (c : Context) (f : FaultInfo) : (c.raise f).dev = c.dev := rfl
@[simp] theorem Context.raise_heads (c : Context) (f : FaultInfo) : (c.raise f).heads = c.heads := rfl
@[simp] theorem Context.raise_devQ (c : Context) (f : FaultInfo) : (c.raise f).devQ = c.devQ := rfl
@[simp] theorem Context.raise_events (c : Context) (f : FaultInfo) : (c.raise f).events = c.events := rfl
@[simp] theorem Context.raise_mirror (c : Context) (f : FaultInfo) : (c.raise f).mirror = c.mirror := rfl
@[simp] theorem Context.raise_dropped (c : Context) (f : FaultInfo) : (c.raise f).dropped = c.dropped := rfl
@[simp] theorem Context.raise_dbovf (c : Context) (f : FaultInfo) : (c.raise f).dbovf = c.dbovf := rfl
@[simp] theorem Context.raise_fqHead (c : Context) (f : FaultInfo) : (c.raise f).fqHead = c.fqHead := rfl
@[simp] theorem Context.raise_fqTail (c : Context) (f : FaultInfo) : (c.raise f).fqTail = c.fqTail := rfl
@[simp] theorem Context.raise_tagged (c : Context) (f : FaultInfo) : (c.raise f).tagged = c.tagged := rfl
@[simp] theorem Context.raise_nextTag (c : Context) (f : FaultInfo) : (c.raise f).nextTag = c.nextTag := rfl
@[simp] theorem Context.raise_susp (c : Context) (f : FaultInfo) : (c.raise f).susp = c.susp := rfl
@[simp] theorem Context.raise_wb (c : Context) (f : FaultInfo) : (c.raise f).wb = c.wb := rfl
@[simp] theorem Context.raise_wpLost (c : Context) (f : FaultInfo) : (c.raise f).wpLost = c.wpLost := rfl
@[simp] theorem Context.raise_cut (c : Context) (f : FaultInfo) : (c.raise f).cut = c.cut := rfl
@[simp] theorem Context.raise_wps (c : Context) (f : FaultInfo) : (c.raise f).wps = c.wps := rfl

end Sys2Proof.Machine
end

