-- ==== Sys2Proof/Laws/Ops.lean ====
section
/-! SUPPORT. What the shared operations do, each once: how words and device steps run, changing a thread, taking a fault. -/

namespace Sys2Proof.Machine

open Sys2Proof

/-! ### How words and steps run -/

/-- A word that changes only its thread, with its guard true. -/
theorem regWord_run {s : State} {c : Ctl} {e : Env} {t : Thread} (f : Env → Thread → Thread) (h : s.runs c e t) :
    regWord c s f = .next (s.ran e c (f e)) := by
  obtain ⟨hm, hg⟩ := h
  simp only [regWord, hm, hg, if_true, State.ran, Env.mod]

/-- The same with its guard false: the marker only. -/
theorem regWord_skip {s : State} {c : Ctl} {e : Env} {t : Thread} (f : Env → Thread → Thread) (hm : s.member = some (e, t))
    (hg : t.guard c = false) : regWord c s f = .next (s.ran e c id) := by
  simp only [regWord, hm, hg, State.ran, Env.mod]; rfl

/-- A word that changes more than its thread, with its guard true. -/
theorem word_run {s : State} {c : Ctl} {e : Env} {t : Thread} (f : Env → Thread → Dev → Dev) (h : s.runs c e t) :
    word c s f = .next (s.after e c (f e t)) := by
  obtain ⟨hm, hg⟩ := h
  simp only [word, hm, hg, if_true, State.after]

/-- The same with its guard false. -/
theorem word_skip {s : State} {c : Ctl} {e : Env} {t : Thread} (f : Env → Thread → Dev → Dev) (hm : s.member = some (e, t))
    (hg : t.guard c = false) : word c s f = .next (s.ran e c id) := by
  simp only [word, hm, hg, State.ran, Env.mod]; rfl

/-- One of the eleven words of R71 with its guard true. -/
theorem lastWord_run {s : State} {c : Ctl} {e : Env} {t : Thread} (f : Env → Thread → Dev → Dev) (h : s.runs c e t) :
    lastWord c s f = .next (s.after e c (f e t)) := by
  obtain ⟨hm, hg⟩ := h
  simp only [lastWord, hm, hg, if_true, State.after]

/-- A word answers a next state exactly where `cur` names a member. -/
theorem word_next_iff {s : State} {c : Ctl} {f : Env → Thread → Dev → Dev} : (∃ u, word c s f = .next u) ↔ s.member.isSome := by
  unfold word
  cases h : s.member <;> simp

/-- A device step leaves the features alone. -/
@[simp] theorem onM_next (s : State) (f : Features → Dev → Dev) : onM s f = .next { s with m := f s.feat s.m } := rfl

/-- A host operation that the device answers. -/
theorem hostOp_run {s : State} (f : Features → Dev → Dev) (h : s.answers) : hostOp s f = .next (s.withDev (f s.feat s.m)) := by
  unfold State.answers at h
  simp [hostOp, h, State.withDev]

/-- A device in recovery answers no host operation (R335). -/
theorem hostOp_recovery {s : State} (f : Features → Dev → Dev) (h : s.m.mgmt.boot = .recovery) : hostOp s f = .next s := by
  simp [hostOp, h]

/-- Every word answers with the features it found. -/
theorem regWord_feat {c : Ctl} {s u : State} {f : Env → Thread → Thread} (h : regWord c s f = .next u) : u.feat = s.feat := by
  unfold regWord at h
  split at h <;> simp at h
  rw [← h]
theorem word_feat {c : Ctl} {s u : State} {f : Env → Thread → Dev → Dev} (h : word c s f = .next u) : u.feat = s.feat := by
  unfold word at h
  split at h <;> simp at h
  rw [← h]
theorem lastWord_feat {c : Ctl} {s u : State} {f : Env → Thread → Dev → Dev} (h : lastWord c s f = .next u) : u.feat = s.feat := by
  unfold lastWord at h
  split at h <;> simp at h
  rw [← h]
theorem onM_feat {s u : State} {f : Features → Dev → Dev} (h : onM s f = .next u) : u.feat = s.feat := by
  simp at h
  rw [← h]
theorem hostOp_feat {s u : State} {f : Features → Dev → Dev} (h : hostOp s f = .next u) : u.feat = s.feat := onM_feat h

/-! ### Cores, blocks, threads, contexts -/

@[simp] theorem Dev.core_setCore_same (m : Dev) (i : Nat) (c : Core) : (m.setCore i c).core i = c := by simp [Dev.setCore, Dev.core]
@[simp] theorem Dev.core_setCore_ne (m : Dev) (i j : Nat) (c : Core) (h : j ≠ i) : (m.setCore i c).core j = m.core j := by
  simp [Dev.setCore, Dev.core, h]
@[simp] theorem Dev.core_modCore_same (m : Dev) (i : Nat) (f : Core → Core) : (m.modCore i f).core i = f (m.core i) := by simp [Dev.modCore]
@[simp] theorem Dev.core_modCore_ne (m : Dev) (i j : Nat) (f : Core → Core) (h : j ≠ i) : (m.modCore i f).core j = m.core j := by
  simp [Dev.modCore, h]

theorem Core.block_id {c : Core} {b : Nat} {x : Block} (h : c.block b = some x) : x.id = b := by
  have := List.find?_some h
  simpa using this

theorem find_map_block_ne (l : List Block) (b j : Nat) (f : Block → Block) (hf : ∀ x, (f x).id = x.id) (h : j ≠ b) :
    (l.map fun x => if x.id == b then f x else x).find? (fun x => x.id == j) = l.find? fun x => x.id == j := by
  induction l with
  | nil => rfl
  | cons x r ih =>
    rw [List.map_cons, List.find?_cons, List.find?_cons, ih]
    by_cases hx : x.id = b
    · have hbj : (b == j) = false := by simpa using fun e => h e.symm
      simp [hx, hf, hbj]
    · have hxb : (x.id == b) = false := by simpa using hx
      simp [hxb]

theorem find_map_block_same (l : List Block) (b : Nat) (f : Block → Block) (hf : ∀ x, (f x).id = x.id) :
    (l.map fun x => if x.id == b then f x else x).find? (fun x => x.id == b) = (l.find? fun x => x.id == b).map f := by
  induction l with
  | nil => rfl
  | cons x r ih =>
    rw [List.map_cons, List.find?_cons, List.find?_cons, ih]
    by_cases hx : x.id = b
    · simp [hx, hf]
    · have hxb : (x.id == b) = false := by simpa using hx
      simp [hxb]

/-- Changing a block that keeps its identity leaves the others alone, and the block reads as changed. -/
theorem Core.block_modBlock_ne (c : Core) (b j : Nat) (f : Block → Block) (hf : ∀ x, (f x).id = x.id) (h : j ≠ b) :
    (c.modBlock b f).block j = c.block j := find_map_block_ne c.blocks b j f hf h

theorem Core.block_modBlock_same (c : Core) (b : Nat) (f : Block → Block) (hf : ∀ x, (f x).id = x.id) :
    (c.modBlock b f).block b = (c.block b).map f := find_map_block_same c.blocks b f hf

@[simp] theorem Block.thread_modThread_same (b : Block) (s : Nat) (f : Thread → Thread) : (b.modThread s f).thread s = f (b.thread s) := by
  simp [Block.modThread, Block.thread]
@[simp] theorem Block.thread_modThread_ne (b : Block) (s j : Nat) (f : Thread → Thread) (h : j ≠ s) :
    (b.modThread s f).thread j = b.thread j := by
  simp [Block.modThread, Block.thread, h]

/-- A changed thread reads as changed. -/
theorem Dev.thread_modThread_same (m : Dev) (core blk slot : Nat) (f : Thread → Thread) :
    (m.modThread core blk slot f).thread core blk slot = (m.thread core blk slot).map f := by
  simp only [Dev.modThread, Dev.modBlock, Dev.thread, Dev.block, Dev.core_modCore_same]
  rw [Core.block_modBlock_same _ _ (fun x => x.modThread slot f) (fun x => rfl)]
  cases (m.core core).block blk <;> simp

/-- The other threads of the block read as before. -/
theorem Dev.thread_modThread_ne (m : Dev) (core blk slot j : Nat) (f : Thread → Thread) (h : j ≠ slot) :
    (m.modThread core blk slot f).thread core blk j = m.thread core blk j := by
  simp only [Dev.modThread, Dev.modBlock, Dev.thread, Dev.block, Dev.core_modCore_same]
  rw [Core.block_modBlock_same _ _ (fun x => x.modThread slot f) (fun x => rfl)]
  cases (m.core core).block blk <;> simp [h]

@[simp] theorem Dev.ctx_modCtx_same (m : Dev) (a : Nat) (f : Context → Context) : (m.modCtx a f).ctx a = (m.ctx a).map f := by
  simp [Dev.modCtx, Dev.ctx]
@[simp] theorem Dev.ctx_modCtx_ne (m : Dev) (a j : Nat) (f : Context → Context) (h : j ≠ a) : (m.modCtx a f).ctx j = m.ctx j := by
  simp [Dev.modCtx, Dev.ctx, h]

/-- Changing a context leaves the cores alone, and changing a core the contexts. -/
@[simp] theorem Dev.core_modCtx (m : Dev) (a i : Nat) (f : Context → Context) : (m.modCtx a f).core i = m.core i := rfl
@[simp] theorem Dev.ctx_modCore (m : Dev) (a i : Nat) (f : Core → Core) : (m.modCore i f).ctx a = m.ctx a := rfl
@[simp] theorem Dev.ctx_modThread (m : Dev) (a i b s : Nat) (f : Thread → Thread) : (m.modThread i b s f).ctx a = m.ctx a := rfl
@[simp] theorem Dev.core_modMgmt (m : Dev) (i : Nat) (f : Mgmt → Mgmt) : (m.modMgmt f).core i = m.core i := rfl
@[simp] theorem Dev.ctx_modMgmt (m : Dev) (a : Nat) (f : Mgmt → Mgmt) : (m.modMgmt f).ctx a = m.ctx a := rfl
@[simp] theorem Dev.core_fresh (m : Dev) (i : Nat) : m.fresh.core i = m.core i := rfl
@[simp] theorem Dev.ctx_fresh (m : Dev) (a : Nat) : m.fresh.ctx a = m.ctx a := rfl
@[simp] theorem Dev.core_raise (m : Dev) (a i : Nat) (f : FaultInfo) : (m.raise a f).core i = m.core i := rfl
@[simp] theorem Dev.core_charge (m : Dev) (a i : Nat) (c : Charge) (f : Flt) (x : Susp) : (m.charge a c f x).core i = m.core i := rfl
@[simp] theorem Dev.mgmt_modMgmt (m : Dev) (f : Mgmt → Mgmt) : (m.modMgmt f).mgmt = f m.mgmt := rfl
@[simp] theorem Dev.die_modDie_same (m : Dev) (d : Nat) (f : DieCtl → DieCtl) : (m.modDie d f).die d = f (m.die d) := by simp [Dev.modDie, Dev.die]
@[simp] theorem Dev.die_modDie_ne (m : Dev) (d j : Nat) (f : DieCtl → DieCtl) (h : j ≠ d) : (m.modDie d f).die j = m.die j := by
  simp [Dev.modDie, Dev.die, h]

/-! ### Members and changed threads -/

/-- The member that `cur` names is a thread of the machine. -/
theorem State.member_thread {s : State} {e : Env} {t : Thread} (h : s.member = some (e, t)) :
    s.m.cur = some e.cu ∧ s.m.block e.cu.core e.cu.blk = some e.blk ∧ s.m.thread e.cu.core e.cu.blk e.cu.slot = some t ∧ e.ft = s.feat ∧
      e.cyc = (s.m.core e.cu.core).cyc := by
  unfold State.member at h
  split at h
  · simp at h
  · rename_i cu hcu
    split at h
    · simp at h
    · rename_i b hb
      simp only [Option.some.injEq, Prod.mk.injEq] at h
      obtain ⟨rfl, rfl⟩ := h
      exact ⟨hcu, hb, by simp [Dev.thread, hb], rfl, rfl⟩

/-- After a word that changes only its thread, the thread reads as changed. -/
theorem State.ran_thread {s : State} {e : Env} {t : Thread} (c : Ctl) (f : Thread → Thread) (h : s.member = some (e, t)) :
    (s.ran e c f).m.thread e.cu.core e.cu.blk e.cu.slot = some (f (t.mark c)) := by
  simp only [State.ran, Env.mod]
  rw [Dev.thread_modThread_same, (State.member_thread h).2.2.1]
  rfl

/-- Everything beside that thread is as before. -/
theorem State.ran_onlyThread (s : State) (e : Env) (c : Ctl) (f : Thread → Thread) :
    onlyThread s (s.ran e c f) e.cu.core e.cu.blk e.cu.slot := by
  refine ⟨rfl, rfl, ?_, ?_, ?_, ?_⟩
  · intro k hk
    simp [State.ran, Env.mod, Dev.modThread, Dev.modBlock, hk]
  · simp [State.ran, Env.mod, Dev.modThread, Dev.modBlock, Core.modBlock]
  · intro b hb
    simp only [State.ran, Env.mod, Dev.modThread, Dev.modBlock, Dev.core_modCore_same]
    exact Core.block_modBlock_ne _ _ _ (fun x => x.modThread e.cu.slot fun x => f (x.mark c)) (fun x => rfl) hb
  · intro j hj
    simp only [State.ran, Env.mod]
    exact Dev.thread_modThread_ne _ _ _ _ _ _ hj

/-! ### Registers -/

@[simp] theorem Thread.reg_putReg_same (t : Thread) (i : Nat) (v : Word) : (t.putReg i v).reg i = v := by simp [Thread.putReg, Thread.reg]
@[simp] theorem Thread.reg_putReg_ne (t : Thread) (i j : Nat) (v : Word) (h : j ≠ i) : (t.putReg i v).reg j = t.reg j := by
  simp [Thread.putReg, Thread.reg, h]
@[simp] theorem Thread.reg_setReg_same (t : Thread) (i : Nat) (v : Word) : (t.setReg i v).reg i = v := by simp [Thread.setReg, Thread.reg]
@[simp] theorem Thread.reg_setReg_ne (t : Thread) (i j : Nat) (v : Word) (h : j ≠ i) : (t.setReg i v).reg j = t.reg j := by
  simp [Thread.setReg, Thread.reg, h]
@[simp] theorem Thread.reg_mark (t : Thread) (c : Ctl) (j : Nat) : (t.mark c).reg j = t.reg j := by simp [Thread.reg]
@[simp] theorem Thread.reg_setPred (t : Thread) (i j : Nat) (v : Bool) : (t.setPred i v).reg j = t.reg j := by simp [Thread.reg]
@[simp] theorem Thread.getPred_mark (t : Thread) (c : Ctl) (j : Nat) : (t.mark c).getPred j = t.getPred j := by simp [Thread.getPred]
@[simp] theorem Thread.getPred_setReg (t : Thread) (i j : Nat) (v : Word) : (t.setReg i v).getPred j = t.getPred j := rfl

/-! ### Taking a fault -/

/-- A non-replayable fault raises its context's halt line (R303). -/
theorem Context.raise_halts (c : Context) (f : FaultInfo) (h : f.nr = true) : (c.raise f).halt.isSome := by simp [Context.raise, h]

/-- A replayable one does not. -/
theorem Context.raise_replayable (c : Context) (f : FaultInfo) (h : f.nr = false) : (c.raise f).halt = c.halt := by simp [Context.raise, h]

/-- Either way its entry waits to be written (R300). -/
theorem Context.raise_waits (c : Context) (f : FaultInfo) : (c.raise f).waiting = c.waiting ++ [f] := rfl

/-- The state after reset holds memory in its canonical form. -/
theorem reset_memory_wf : Memory.wf State.reset.m.mem = true := rfl

end Sys2Proof.Machine
end

