-- ==== Sys2Proof/Tests/Slice0.lean ====
section
/-! SUPPORT. Tests: small states, a witness for the hypotheses of every statement, words of the spec decoded, ill-formed words refused. A theorem
witness_<Name> or witness_<Name>_<clause> meets the hypotheses of Obligations.<Name>, of the clause it names. -/

set_option linter.unusedSimpArgs false
set_option Elab.async false

namespace Sys2Proof.Tests

open Sys2Proof Sys2Proof.Machine

/-! ### Small states -/

/-- A clause header of COUNT 1 at class 0 that waits for nothing (R62). -/
def header : DWord := 0x00FF000000000000

/-- Block slot `slot` of the block on core 0, in the clause at address 0. -/
def cursor (slot : Nat) : Cursor := { core := 0, blk := 0, slot := slot, islot := slot % 4, addr := 0, hdr := header, word := 0, pos := 0, ext := none }

/-- The reset machine with a core 0, a context 0, and a member. -/
def onCore (c : Core) (x : Context) : State :=
  { State.reset with m := { State.reset.m with cores := [(0, c)], ctxs := [(0, some x)], cur := some (cursor 0) } }

/-- The same with a block on the core. -/
def onBlock (b : Block) : State := onCore { Fresh.core with blocks := [b] } (bareContext 0)

/-- The bare block with another thread in slot 0. -/
def blockOf (t : Thread) : Block := { bareBlock with threads := [(0, t)] }

/-- A thread that stands in a course's clause, with registers. -/
def running (regs : SMap Word) : Thread := { Fresh.thread with st := .ready, inCourse := true, regs := regs }

/-- What a word of the bare block's thread sees. -/
def envOf (b : Block) : Env := { ft := Fresh.features, cu := cursor 0, cyc := 0, blk := b }

/-- An always true guard, no marker. -/
def always : Ctl := { park := false, guard := 7 }

/-- Fields that name register 0 everywhere, for .n32. -/
def rrr : RRR := { d := 0, a := 0, b := 0, c := 0, ty := 2, md := 0, imm := 0 }

/-- The next state's machine. -/
def nextDev (o : Host.Outcome State Fault Refusal) : Option Dev := match o with | .next s => some s.m | _ => none

/-- Register `i` of the member after a word. -/
def regAfter (i : Instr) (s : State) (r : Nat) : Option Word := (nextDev (exec i s)).bind fun m => (m.thread 0 0 0).map fun t => t.reg r

/-- A state whose features are those of a device before its lock. -/
def unlocked : State := State.reset
/-- The same with the features locked. -/
def locked (x : List (Nat × Option Context)) (acc : BitVec 6) : State :=
  { feat := { Fresh.features with lock := true, acc := acc }, m := { State.reset.m with ctxs := x } }

/-! ### Register words -/

theorem runs_bare : (onBlock bareBlock).runs always (envOf bareBlock) (bareBlock.thread 0) := ⟨rfl, rfl⟩

theorem witness_IntegerWords : (onBlock bareBlock).runs always (envOf bareBlock) (bareBlock.thread 0) := runs_bare
theorem witness_FloatWords : (onBlock bareBlock).runs always (envOf bareBlock) (bareBlock.thread 0) := runs_bare
theorem witness_MarksAndSpecialRegisters : (onBlock bareBlock).runs always (envOf bareBlock) (bareBlock.thread 0) := runs_bare

/-- A guard of p0, which reset leaves false, and one of the never executing !p7. -/
theorem witness_FalseGuardDoesNothing :
    ∀ g ∈ [(0 : BitVec 4), 15], (Instr.add { park := false, guard := g } rrr).wf = true ∧ ctlOfWord (.add { park := false, guard := g } rrr) = some { park := false, guard := g } ∧
      (onBlock bareBlock).member = some (envOf bareBlock, bareBlock.thread 0) ∧ (bareBlock.thread 0).guard { park := false, guard := g } = false := by decide +kernel
theorem witness_FalseGuardDoesNothing_last :
    let f : BR := { d := 0, offset := 3 }
    (Instr.bra { park := false, guard := 15 } f).wf = true ∧ isLastOnly (.bra { park := false, guard := 15 } f) = true ∧
      ctlOfWord (.bra { park := false, guard := 15 } f) = some { park := false, guard := 15 } := by decide +kernel

theorem witness_RegisterWordsFrame : ∃ u, changesRegistersOnly (.add always rrr) = true ∧ (Instr.add always rrr).wf = true ∧
    (onBlock bareBlock).member = some (envOf bareBlock, bareBlock.thread 0) ∧ exec (.add always rrr) (onBlock bareBlock) = .next u :=
  ⟨_, rfl, by decide +kernel, rfl, rfl⟩

theorem witness_ArithmeticByTheRules_wrap : (onBlock bareBlock).runs always (envOf bareBlock) (bareBlock.thread 0) ∧
    ({ rrr with ty := 6 }.ty = 2 ∨ { rrr with ty := 6 }.ty = 6) ∧ rrr.md = 0 := ⟨runs_bare, by decide⟩
theorem witness_ArithmeticByTheRules_saturate : (onBlock bareBlock).runs always (envOf bareBlock) (bareBlock.thread 0) ∧
    { rrr with ty := 6, md := 1 }.ty = 6 ∧ { rrr with ty := 6, md := 1 }.md = 1 := ⟨runs_bare, by decide⟩
theorem witness_ArithmeticByTheRules_nan :
    let b := blockOf (running [(0, 0x7F800001)])
    (onBlock b).runs always (envOf b) (b.thread 0) ∧ { rrr with ty := 10 }.ty = 10 ∧ fval 10 (b.thread 0) 0 = .nan := by
  simp only [State.runs, State.answers, State.hasCtx]; decide +kernel

theorem witness_RegistersAndGuards : ((0x0070000000000000 : DWord).extractLsb' 52 4 = 0b0111) ∧ ((0x00F0000000000000 : DWord).extractLsb' 52 4 = 0b1111) ∧
    (onBlock bareBlock).runs always (envOf bareBlock) (bareBlock.thread 0) ∧ { rrr with d := 7 }.d = 7 := by
  simp only [State.runs, State.answers, State.hasCtx]; decide +kernel

/-- Two pending writes of g5, and one. -/
theorem witness_RegisterWritesKeepTheirOrder :
    let p : Pending := { id := 0, dst := [5], dead := [], val := some [1] }
    let q : Pending := { id := 1, dst := [5], dead := [], val := some [2] }
    p.id < q.id ∧ { running [] with pend := [p, q] }.pend = [p, q] ∧ { running [] with pend := [p] }.pend = [p] := by decide

/-- The first and the last byte of both parts. -/
theorem witness_HomesOfAddresses : State.reset.m.mgmt.podDev < 4096 ∧ ∀ p ∈ [Part.g4x, .g4h],
    let ft : Features := { part := p, acc := 0, lock := false }
    0 < 4 * ft.dieSpan ∧ 4 * ft.dieSpan - 1 < 4 * ft.dieSpan := by decide

/-- A record that is read and written as memory at rest. -/
def recordsB (m : Dev) (ft : Features) (pa : Nat) : Bool :=
  decide (m.recordCause ft pa = none) && !m.watching && decide (m.hostHeld = [] ∧ m.podOwned = []) && m.cores.all fun p => decide (p.2.skeins = []) && decide (p.2.l1 = [])

theorem records_of {m : Dev} {ft : Features} {pa : Nat} (h : recordsB m ft pa = true) : m.records ft pa := by
  simp only [recordsB, Bool.and_eq_true, decide_eq_true_eq, List.all_eq_true, Bool.not_eq_true'] at h
  exact ⟨h.1.1.1, h.1.1.2, h.2, h.1.2⟩

/-! ### Host operations -/

theorem witness_FeatureAcceptance : unlocked.answers ∧ unlocked.feat.lock = false ∧ (locked [] 0).answers ∧ (locked [] 0).feat.lock = true := by
  simp only [State.runs, State.answers, State.hasCtx]; decide +kernel
/-- A creation held before the lock. -/
theorem witness_RequestsBeforeTheLockAndInRecovery : unlocked.answers ∧ unlocked.feat.lock = false ∧
    (unlocked.withDev { State.reset.m with mgmt := { Fresh.mgmt with boot := .recovery } }).m.mgmt.boot = .recovery := by
  simp only [State.runs, State.answers, State.hasCtx]; decide +kernel
/-- A destruction and an event held before the lock, which wait for nothing. -/
theorem witness_RequestsBeforeTheLockAndInRecovery_service :
    let s := unlocked.withDev { State.reset.m with heldWrites := [(.ctxDestroy 0, 0), (.evHost 0x100, 1)] }
    let f := { s.feat with lock := true }
    let after (k : Nat) : Dev := (s.m.heldWrites.take k).foldl (fun m q => m.service f q.1) s.m
    s.answers ∧ s.feat.lock = false ∧ ∀ k, k < 2 → ∀ p ∈ s.m.heldWrites[k]?, (after k).eventWaits p.1 p.2 = false ∧ (after k).recordsWait ((after k).serviceRuns f p.1) = false := by
  simp only [State.answers]; decide +kernel

/-- A descriptor of zeros names a PMASK of 0, which is its lowest broken condition; one with PMASK 1 and IMGN 1 breaks none; of one the status area lies at a byte that no memory
backs, of one behind a port that is down. -/
theorem witness_ContextCreation :
    let at_ (l : List Host.Cell) : State := (locked [] 0).withDev { State.reset.m with mem := l }
    let d (s : State) (i : Nat) : Nat := if i < 8 then s.m.getRecord (8 * i) 8 else 0
    let code (s : State) : Nat := descriptorCode (d s) (s.m.ctx (d s 0 % 8192)).isSome
    (∀ l ∈ [[], [(2, 2), (16, 1)], [(2, 2), (16, 1), (29, 1)]], (at_ l).answers ∧ (at_ l).feat.lock = true ∧ (at_ l).m.recordCause (at_ l).feat 0 = none ∧ (at_ l).m.heldWrites = [] ∧
      (at_ l).m.recordsWait ((at_ l).m.serviceRuns (at_ l).feat (.ctxCreate 0)) = false) ∧ code (at_ []) ≠ 0 ∧
      (code (at_ [(2, 2), (16, 1)]) = 0 ∧ (at_ [(2, 2), (16, 1)]).m.recordCause (at_ []).feat (d (at_ [(2, 2), (16, 1)]) 3 % 2 ^ 52) = none ∧
        (at_ [(2, 2), (16, 1)]).m.recordFree (d (at_ [(2, 2), (16, 1)]) 3 % 2 ^ 52) 0x8100 = true) ∧
      code (at_ [(2, 2), (16, 1), (29, 1)]) = 0 ∧ (at_ [(2, 2), (16, 1), (29, 1)]).m.recordCause (at_ []).feat (d (at_ [(2, 2), (16, 1), (29, 1)]) 3 % 2 ^ 52) ≠ none := by
  simp only [State.answers]; decide +kernel

/-! ### Contexts, cuts, faults -/

/-- A fault of the SIMT pipeline with every field 0. -/
def noFault : FaultInfo :=
  { cause := 0, engine := .simt, nr := false, core := 0, slot := 0, va := 0, addr := 0, word := 0, info0 := 0, info1 := 0, pa := 0, field := 0, wr := false,
    alias_ := false, cyc := 0, pos := 0, susp := none }

/-- A context at its halt's end, and one that is being destroyed with its halt complete. -/
def ended : Context := { bareContext 0 with st := .destroying, halt := some { primary := noFault, faults := [], settled := true, skidded := true, done := true } }

theorem witness_ContextsEndAndDoorbellsQueue_destroy :
    let s := locked [(0, some (bareContext 0))] 0
    s.answers ∧ s.feat.lock = true ∧ s.m.heldWrites = [] ∧ s.hasCtx 0 (bareContext 0) ∧ (bareContext 0).st ≠ .destroying ∧ ((bareContext 0).halt.any fun h => h.done) = false := by
  simp only [State.runs, State.answers, State.hasCtx]; decide +kernel
/-- A context that has halted, whose blocks and entries are gone. -/
theorem witness_ContextsEndAndDoorbellsQueue_halted :
    let x : Context := { ended with st := .halted }
    let s := locked [(0, some x)] 0
    s.answers ∧ s.feat.lock = true ∧ s.m.heldWrites = [] ∧ s.hasCtx 0 x ∧ x.st ≠ .destroying ∧ x.halt = ended.halt ∧ (x.halt.any fun h => h.done) = true ∧ s.m.blocksOf 0 = [] ∧ s.m.cores = [] := by
  simp only [State.answers, State.hasCtx]; decide +kernel
theorem witness_ContextsEndAndDoorbellsQueue_idle :
    let x : Context := { bareContext 0 with st := .idle }
    (locked [(0, some x)] 0).hasCtx 0 x ∧ (locked [(0, some x)] 0).m.heldWrites = [] ∧ x.st = .idle ∧ x.heads = [] ∧ x.halt = none ∧ x.main.cur = none := by simp only [State.hasCtx]; decide +kernel
theorem witness_ContextsEndAndDoorbellsQueue_complete :
    let s := locked [(0, some ended)] 0
    s.hasCtx 0 ended ∧ ended.st = .destroying ∧ (ended.halt.any fun h => h.done) = true ∧ (∀ p ∈ s.m.cores, (∀ b ∈ p.2.blocks, b.asid ≠ 0) ∧ ∀ q ∈ p.2.skeins, ∀ k, q.2 = some k → k.asid ≠ 0) := by
  refine ⟨rfl, rfl, rfl, ?_⟩
  intro p hp; cases hp
theorem witness_ContextsEndAndDoorbellsQueue_doorbell :
    let full : Context := { bareContext 0 with heads := List.replicate 64 0 }
    let busy : Context := { bareContext 0 with main := { Fresh.chain with cur := some 128 } }
    let last : Context := { busy with heads := List.replicate 63 0 }
    ((locked [(0, some full)] 0).hasCtx 0 full ∧ 64 ≤ full.heads.length) ∧ (locked [(0, some busy)] 0).hasCtx 0 busy ∧ busy.heads.length < 64 ∧ busy.main.cur.isSome ∧
      last.heads.length < 64 ∧ last.main.cur.isSome := by
  simp only [State.runs, State.answers, State.hasCtx]; decide +kernel

theorem witness_HostEventsAndClearingReads :
    let s := locked [(0, some (bareContext 0))] 0
    s.answers ∧ s.feat.lock = true ∧ s.m.heldWrites = [] ∧ s.hasCtx 0 (bareContext 0) ∧ s.m.mgmt.ctxSel = 0 ∧ s.m.home.outside = [] ∧ (bareContext 0).still := by
  simp only [State.answers, State.hasCtx, Context.still]; decide +kernel
/-- A request of the host that came before waits. -/
theorem witness_HostEventsAndClearingReads_held :
    let s := locked [(0, some (bareContext 0))] 0
    let x : OutsideReq := { id := 0, agent := .host 0, loc := 0, n := 4, op := .load, late := none }
    let u := s.withDev { s.m with nextId := 1, home := { s.m.home with outside := [x] } }
    u.answers ∧ u.feat.lock = true ∧ u.m.heldWrites = [] ∧ u.hasCtx 0 (bareContext 0) ∧ x ∈ u.m.home.outside ∧ x.id < u.m.nextId ∧ x.agent = .host 0 := by
  simp only [State.answers, State.hasCtx]; decide +kernel
theorem witness_HostRegistersHold :
    let s := locked [(0, some (bareContext 0))] 0
    s.answers ∧ s.hasCtx s.m.mgmt.ctxSel (bareContext 0) ∧ ((s.withDev (s.m.modDie 3 fun d => { d with hclr := true })).m.die 3).hclr = true := by
  simp only [State.runs, State.answers, State.hasCtx]; decide +kernel

/-- A context whose cut runs. -/
def cutting : Context := { bareContext 0 with cut := { Fresh.cut with st := .running, limit := 1, elapsed := 1024 } }
/-- A block of two participants held at steps 4 and 5. -/
def heldBlock : Block := { bareBlock with threads := [(0, { Fresh.thread with st := .ready, step := 4, cutHeld := true }), (1, { Fresh.thread with st := .ready, step := 5, cutHeld := true })] }

theorem witness_Cuts_request :
    let s := locked [(0, some (bareContext 0))] 0
    s.answers ∧ s.hasCtx s.m.mgmt.ctxSel (bareContext 0) ∧ (bareContext 0).cut.st ≠ .running := by
  simp only [State.runs, State.answers, State.hasCtx]; decide +kernel
theorem witness_Cuts_abort :
    let s := locked [(0, some cutting)] 0
    s.hasCtx 0 cutting ∧ cutting.cut.st = .running ∧ cutting.cut.limit ≠ 0 ∧ 1024 * cutting.cut.limit ≤ cutting.cut.elapsed := by
  simp only [State.runs, State.answers, State.hasCtx]; decide +kernel
/-- A cut of one device; one of the pod, whose largest step elsewhere is 9. -/
theorem witness_Cuts_reduce : ∀ p ∈ [(false, none), (true, some 9)],
    let x : Context := { cutting with cut := { cutting.cut with pod := p.1 } }
    let s := onCore { Fresh.core with blocks := [heldBlock] } x
    s.hasCtx 0 x ∧ x.cut.st = .running ∧ (∀ t ∈ s.m.participants 0, t.atCut = true) ∧ (x.cut.pod = true → (p.2 : Option Nat).isSome = true) ∧ s.m.participants 0 ≠ [] := by
  simp only [State.hasCtx]; decide +kernel
/-- One fabric cycle before the limit, with the pod in agreement. -/
theorem witness_Cuts_complete :
    let x : Context := { cutting with cut := { cutting.cut with target := 4, elapsed := 1023, pod := true, agreed := true } }
    let s := onCore { Fresh.core with blocks := [{ heldBlock with threads := heldBlock.threads.take 1 }] } x
    s.hasCtx 0 x ∧ x.cut.st = .running ∧ (∀ t ∈ s.m.participants 0, t.atCut = true) ∧ (∀ t ∈ s.m.participants 0, t.step = x.cut.target) ∧
      (∀ p ∈ s.m.blocksOf 0, (s.m.core p.1).enginesQuiet p.2 = true) ∧ (x.cut.pod = true → x.cut.agreed = true) ∧ x.cut.limit ≠ 0 ∧ x.cut.elapsed < 1024 * x.cut.limit := by
  simp only [State.hasCtx]; decide +kernel

/-- A context with a full queue; one whose load suspended under tag 1. -/
def queueFull : Context := { bareContext 0 with fqTail := 0, fqHead := 0x100 }
def suspendedLoad : Context := { bareContext 0 with tagged := [{ tag := 1, info := { noFault with cause := 1, susp := some (.access 0 7) } }] }

/-- An entry without a tag, and one of a suspended access that takes tag 1. -/
theorem witness_FaultQueueAndReplay_entry : ∀ p ∈ [({ noFault with cause := 0x10, nr := true }, 0), ({ noFault with cause := 1, susp := some (.access 0 7) }, 1)],
    let c : Context := { bareContext 0 with waiting := [p.1] }
    let s := locked [(0, some c)] 0
    s.hasCtx 0 c ∧ c.waiting = p.1 :: [] ∧ ((p.1.susp = none ∧ p.2 = 0) ∨ (p.1.susp.isSome = true ∧ c.freeTag = some p.2)) ∧ (c.fqTail - c.fqHead).toNat < 256 ∧
      recordsB s.m s.feat (c.stat + 0xC000 + 64 * (c.fqTail.toNat % 256)) = true := by simp only [State.hasCtx]; decide +kernel
theorem witness_FaultQueueAndReplay_full : (locked [(0, some queueFull)] 0).hasCtx 0 queueFull ∧ 256 ≤ (queueFull.fqTail - queueFull.fqHead).toNat ∧ queueFull.freeTag = some 1 := by
  simp only [State.hasCtx]; decide +kernel

theorem witness_SuspensionAndShootdowns_suspension :
    let s := locked [(0, some { bareContext 0 with wb := true })] 0
    s.answers ∧ s.hasCtx s.m.mgmt.ctxSel { bareContext 0 with wb := true } ∧ { bareContext 0 with wb := true }.wb = true ∧ { bareContext 0 with wb := true }.still ∧
      (∀ p ∈ s.m.blocksOf 0, p.2.bst = .preempted → p.2.skid = none) ∧ s.m.recordsWait ((s.m.blocksOf 0).flatMap fun p => s.m.imageRun p.2) = false ∧
      (s.m.die (s.feat.dieOf 0)).placing = true := by
  simp only [State.answers, State.hasCtx, Context.still]; decide +kernel

/-- A machine with shootdowns queued. -/
def shooting (n : Nat) (all : Bool) (npg : Nat) : State :=
  (locked [] 0).withDev { State.reset.m with mgmt := { Fresh.mgmt with sdQueue := List.replicate n { asid := 0, all := all, va := 0, npg := npg } } }

theorem witness_SuspensionAndShootdowns_queue : (shooting 15 true 0).answers ∧ (shooting 15 true 0).m.mgmt.sdQueue.length < 16 ∧
    (shooting 16 true 0).answers ∧ 16 ≤ (shooting 16 true 0).m.mgmt.sdQueue.length := by
  simp only [State.runs, State.answers, State.hasCtx]; decide +kernel
theorem witness_SuspensionAndShootdowns_perform :
    let x : Shootdown := { asid := 0, all := false, va := 0, npg := 1 }
    let y : Shootdown := { asid := 0, all := true, va := 0, npg := 0 }
    let z : Shootdown := { asid := 0, all := false, va := 0, npg := 0 }
    (shooting 1 false 0).m.mgmt.sdQueue = z :: [] ∧ z.all = false ∧ z.npg = 0 ∧ (shooting 1 false 1).m.mgmt.sdQueue = x :: [] ∧ x.npg ≠ 0 ∧
      (∀ p ∈ (shooting 1 false 1).m.cores, (shooting 1 false 1).m.shootWaits x p.1 = false) ∧ (shooting 1 true 0).m.mgmt.sdQueue = y :: [] ∧ y.all = true := by
  simp only [State.runs, State.answers, State.hasCtx]; decide +kernel

/-! ### Management -/

/-- The reset machine with other management registers. -/
def managed (g : Mgmt) : State := (locked [] 0x3F).withDev { State.reset.m with mgmt := g }
/-- An image that verifies. -/
def goodImage : ImageCheck := { wellFormed := true, ecdsaOk := true, lmsOk := true, version := 1 }

theorem witness_KeysBootAndUpdates_keys :
    (managed Fresh.mgmt).answers ∧ (managed Fresh.mgmt).m.mgmt.keyBusy = false ∧ (1 : DWord).toNat % 8192 ≠ 0 ∧ (0x1FFF : DWord).toNat % 8192 ≠ 0 ∧
      (managed { Fresh.mgmt with keyBusy := true }).answers ∧ (managed { Fresh.mgmt with keyBusy := true }).m.mgmt.keyBusy = true ∧
      (managed { Fresh.mgmt with keyCmd := some (true, 1) }).m.mgmt.keyCmd = some (true, 1) := by
  simp only [State.runs, State.answers, State.hasCtx]; decide +kernel
/-- A root with a good image and with a bad one; two offers, of which the lower is on a link that is down; the image in three conditions, before the last attempt and after it. -/
theorem witness_KeysBootAndUpdates_boot :
    let child := managed { Fresh.mgmt with bootRoot := false, links := [(15, { st := .up, peer := 1 })] }
    (∀ c ∈ [0, 3], (managed { Fresh.mgmt with flashCode := c }).m.mgmt.bootRoot = true ∧ (managed { Fresh.mgmt with flashCode := c }).m.mgmt.boot = .waiting ∧
      (managed { Fresh.mgmt with flashCode := c }).m.mgmt.flashCode = c) ∧
    (child.m.mgmt.bootRoot = false ∧ child.m.mgmt.boot = .waiting ∧ ∃ l ∈ [3, 15], l < child.feat.links ∧ (child.m.mgmt.link l).st = .up) ∧
    (∀ n ∈ [0, 3], (managed { Fresh.mgmt with boot := .verifying (some 3) n }).m.mgmt.boot = .verifying (some 3) n) ∧ (4095 + 1 ≤ 4096 ∧ 0 < 1) ∧
    (goodImage.wellFormed = true ∧ goodImage.ecdsaOk = true ∧ goodImage.lmsOk = true) ∧ { goodImage with wellFormed := false }.wellFormed = false ∧
    { goodImage with ecdsaOk := false }.ecdsaOk = false ∧ { goodImage with lmsOk := false }.lmsOk = false := by decide +kernel
theorem witness_KeysBootAndUpdates_update :
    let u : Update := { version := 1, die := 3 }
    (managed Fresh.mgmt).answers ∧ (managed Fresh.mgmt).m.mgmt.fwBusy = none ∧ imageCode goodImage = 0 ∧ imageCode { goodImage with ecdsaOk := false } ≠ 0 ∧
      (managed { Fresh.mgmt with fwBusy := some u }).m.mgmt.fwBusy = some u ∧ u.die < 4 ∧ (managed { Fresh.mgmt with fwBusy := some u }).m.dieBusy Fresh.features u.die = false ∧
      4 ≤ { u with die := 4 }.die := by
  simp only [State.runs, State.answers, State.hasCtx]; decide +kernel

theorem witness_LinksClocksAndPower_links :
    (managed { Fresh.mgmt with port1 := .up }).m.mgmt.port 1 ≠ .down ∧ 15 < (managed Fresh.mgmt).feat.links ∧
      ((managed { Fresh.mgmt with links := [(15, { st := .up, peer := 1 })] }).m.mgmt.link 15).st ≠ .down ∧ (managed Fresh.mgmt).feat.has 5 = true ∧
      mget none (managed { Fresh.mgmt with routes := [(4095, some 15)] }).m.mgmt.routes 4095 = some 15 ∧ (managed { Fresh.mgmt with boot := .running }).m.mgmt.boot = .running := by
  decide +kernel
/-- A stranded block of host memory behind port 0, and a command, to discard or to write back, with the port up or down. -/
def strandedState (disc up : Bool) : State :=
  let g : Mgmt := { Fresh.mgmt with strandBusy := some disc, strandTimer := true, port0 := if up then .up else .down }
  (managed g).withDev { State.reset.m with mgmt := g, l2 := [(2 ^ 52 / 512, some { newL2 2 0 0 with stranded := [(2 ^ 52 / 128, 0)], data := [(2 ^ 52, some 5)], port := 0 })] }
theorem witness_LinksClocksAndPower_strand :
    let s := managed { Fresh.mgmt with strandTimer := true, port0 := .up }
    (s.answers ∧ s.m.mgmt.strandBusy = none ∧ (0 : DWord).getLsbD 7 = false ∧ s.m.mgmt.strandTimer = true ∧ s.m.mgmt.port (if (0 : DWord).getLsbD 8 then 1 else 0) = .up) ∧
      (managed Fresh.mgmt).m.mgmt.strandTimer = false ∧
      (∀ p ∈ [(true, true), (true, false), (false, true), (false, false)], (strandedState p.1 p.2).m.mgmt.strandBusy = some p.1 ∧
        (strandedState p.1 p.2).m.mgmt.targetUp (strandedState p.1 p.2).m.mgmt.strandAt = p.2) ∧
      ∃ b, (strandedState false true).m.l2 = [(2 ^ 52 / 512, some b)] ∧ b.stranded ≠ [] ∧ b.port = (strandedState false true).m.mgmt.strandAt ∧ (∀ p ∈ b.stranded, p.2 = 0) ∧
        (b.data.map (·.1)).Nodup ∧ b.strandedLoc (2 ^ 52) = true := by
  simp only [State.answers]; exact ⟨by decide +kernel, by decide +kernel, by decide +kernel, _, rfl, by decide +kernel, rfl, by decide +kernel, by decide +kernel, by decide +kernel⟩
/-- Dirty lines behind the port and behind the link that fail, a clean one and one of local memory. -/
theorem witness_LinksClocksAndPower_lines :
    let dirty : L2Block := { newL2 2 0 0 with data := [(2 ^ 52, some 5)] }
    let g : Mgmt := { Fresh.mgmt with port0 := .up, routes := [(4095, some 15)], links := [(15, { st := .up, peer := 4095 })] }
    let s := (managed g).withDev { State.reset.m with mgmt := g, l2 := [(2 ^ 52 / 512, some dirty), (2 ^ 52 / 512 + 1, some (newL2 2 0 0)), (4095 * 2 ^ 40 / 512, some dirty), (1, some dirty)] }
    (s.m.l2.map (·.1)).Nodup ∧ s.m.cores = [] ∧ s.m.behind 0 (512 * (2 ^ 52 / 512)) = true ∧ s.m.behind 0 (512 * (2 ^ 52 / 512 + 1)) = true ∧ s.m.behind 17 (512 * (4095 * 2 ^ 40 / 512)) = true ∧
      s.m.behind 0 512 = false ∧ s.m.behind 17 512 = false ∧ dirty.data ≠ [] ∧ (newL2 2 0 0).data = [] := by decide +kernel
theorem witness_LinksClocksAndPower_clock : 700 ≤ 700 ∧ 1400 ≤ 1400 ∧ 700 % 50 = 0 ∧ 1400 % 50 = 0 := by decide
theorem witness_LinksClocksAndPower_fatal :
    let s := locked [(0, some (bareContext 0))] 0
    s.m.ctx 0 = some (bareContext 0) ∧ (bareContext 0).halt = none := by
  simp only [State.runs, State.answers, State.hasCtx]; decide +kernel
theorem witness_LinksClocksAndPower_gate :
    255 < (managed Fresh.mgmt).feat.coreCount ∧ ((managed Fresh.mgmt).m.core 255).still = true ∧ ((managed Fresh.mgmt).m.core 255).gated = false ∧
      ((managed Fresh.mgmt).m.core 255).skeins = [] := by decide +kernel

/-! ### What a core and the walker find: checks that evaluate, and what they show -/

/-- A page of 2 MiB at address 0 that stands for local memory from 0 on: readable, writable, executable, coherent. -/
def page0 : TlbEntry := { asid := 0, page := 0, log := 21, d0 := 0x139, d1 := 0x80 }
/-- Its leaf, and the same of class 0. -/
def leaf0 : Leaf := { d0 := 0x139, d1 := 0x80, page := 0, log := 21 }
def leafPrivate : Leaf := { leaf0 with d1 := 0 }

/-- The machine of a block whose core has translated page0, with other core state. -/
def withPage (b : Block) (f : Core → Core) : State := onCore (f { Fresh.core with blocks := [b], tlb := [page0] }) (bareContext 0)
/-- The lines of L1 that hold the bytes `l` from `a` on. -/
def inL1 (a : Nat) (l : List Byte) : SMap (Option L1Byte) :=
  (List.range l.length).map fun i => (a + i, some { b := l.getD i 0, key := 0, cc := 2, dirty := false, own := false })

def mappedB (m : Dev) (ft : Features) (core asid va : Nat) (need : Need) (pg : Page) : Bool :=
  match (m.core core).tlbFind asid va with
  | some l => decide (12 ≤ l.log) && (match m.checkLeaf ft l asid va need with | .ok x => x == pg | .error _ => false)
  | none => false

theorem mapped_of {m : Dev} {ft : Features} {core asid va : Nat} {need : Need} {pg : Page} (h : mappedB m ft core asid va need pg = true) :
    m.mapped ft core asid va need pg := by
  unfold mappedB at h
  split at h
  · rename_i l hl
    simp only [Bool.and_eq_true, decide_eq_true_eq] at h
    refine ⟨l, hl, h.1, ?_⟩
    have h2 := h.2
    split at h2
    · rename_i x hx; rw [hx, beq_iff_eq.mp h2]
    · cases h2
  · cases h

def readsB (m : Dev) (ft : Features) (core asid va : Nat) (need : Need) (l : List Byte) : Bool :=
  let pg := leaf0.pageOf asid va
  decide (va + l.length ≤ 2 ^ 57) && !(m.core core).storesAhead va l.length && mappedB m ft core asid va need pg && pg.comp == none &&
    (m.core core).l1Bytes pg.loc l.length == some l

theorem reads_of {m : Dev} {ft : Features} {core asid va : Nat} {need : Need} {l : List Byte} (h : readsB m ft core asid va need l = true) :
    m.reads ft core asid va need l := by
  simp only [readsB, Bool.and_eq_true, decide_eq_true_eq, Bool.not_eq_true', beq_iff_eq] at h
  exact ⟨h.1.1.1.1, h.1.1.1.2, _, mapped_of h.1.1.2, h.1.2, h.2⟩

theorem reads_by_of {m : Dev} {ft : Features} {core asid va w : Nat} {l : List Byte}
    (h : (List.range (l.length / w)).all (fun i => readsB m ft core asid (va + w * i) .read ((l.drop (w * i)).take w)) = true) : m.readsBy ft core asid va w l :=
  fun i hi => reads_of (List.all_eq_true.mp h i (List.mem_range.mpr hi))

theorem sees_of {m : Dev} {ft : Features} {core asid va n : Nat} {f : Nat → Byte}
    (h : (List.range ((va + n + 3) / 4)).all (fun w => decide (w < va / 4) || readsB m ft core asid (4 * w) .read ((List.range 4).map fun i => f (4 * w + i))) = true) :
    m.sees ft core asid f va n := by
  intro w h1 h2
  have hw := List.all_eq_true.mp h w (List.mem_range.mpr h2)
  simp only [Bool.or_eq_true, decide_eq_true_eq] at hw
  exact reads_of (hw.resolve_left (by omega))

def restB (m : Dev) (loc n : Nat) : Bool :=
  decide (0 < n) && (List.range n).all (fun i => m.isLocal (loc + i)) && m.cores.all (fun p => decide (p.2.skeins = []) && decide (p.2.l1 = [])) &&
    decide (m.l2 = [] ∧ m.hostHeld = [] ∧ m.home.busy = [] ∧ m.home.claims = [] ∧ m.home.outside = [] ∧ m.home.refused = [] ∧ m.marks = [] ∧ m.poisoned = [] ∧ m.far = [] ∧ m.podOwned = [])

theorem at_rest_of {m : Dev} {loc n : Nat} (h : restB m loc n = true) : m.atRest loc n := by
  simp only [restB, Bool.and_eq_true, decide_eq_true_eq, List.all_eq_true, List.mem_range] at h
  exact ⟨h.1.1.1, h.1.1.2, h.1.2, h.2⟩

def walkerAtB (m : Dev) (ft : Features) (asid va : Nat) (need : Need) (pg : Page) : Bool :=
  decide (va < 2 ^ 57 ∧ (m.core 0).missed = [] ∧ m.walksBefore ft 0 m.nextId < 64) && (match m.walk ft asid va with
    | .ok l => (match m.checkLeaf ft l asid va need with | .ok x => x == pg | .error _ => false)
    | .error _ => false) && decide (pg.cc = 2 ∧ pg.comp = none ∧ pg.key = 0) && restB m pg.loc 8

theorem walker_at_of {m : Dev} {ft : Features} {asid va : Nat} {need : Need} {pg : Page} (h : walkerAtB m ft asid va need pg = true) :
    m.walkerAt ft asid va need pg := by
  simp only [walkerAtB, Bool.and_eq_true, decide_eq_true_eq] at h
  obtain ⟨⟨⟨h1, h2⟩, h3⟩, h4⟩ := h
  split at h2
  · rename_i l hl
    split at h2
    · rename_i x hx; rw [beq_iff_eq] at h2; subst h2; exact ⟨l, h1.1, h1.2.1, h1.2.2, hl, hx, h3, at_rest_of h4⟩
    · cases h2
  · cases h2

/-- What the walker's tables of the tests give for an address. -/
def walkPage (asid va : Nat) : Page :=
  { asid := asid, loc := va, cc := 2, cg := 0, key := 0, hen := false, hidx := 0, comp := none }

theorem walker_sees_of {m : Dev} {ft : Features} {asid va v : Nat}
    (h : (decide (v < 2 ^ 64) && walkerAtB m ft asid va .read (walkPage asid va) && m.homeBytes 0 va 8 == toBytes 8 v) = true) : m.walkerSees ft asid va v := by
  simp only [Bool.and_eq_true, decide_eq_true_eq, beq_iff_eq] at h
  exact ⟨h.1.1, _, walker_at_of h.1.2, h.2⟩

/-- Rows of doublewords that the walker reads one after the other. -/
theorem walker_reads_of {m : Dev} {ft : Features} {asid va n : Nat} {d : List Nat}
    (h : (List.range n).all (fun i => decide (d.getD i 0 < 2 ^ 64) && walkerAtB m ft asid (va + 8 * i) .read (walkPage asid (va + 8 * i)) &&
      m.homeBytes 0 (va + 8 * i) 8 == toBytes 8 (d.getD i 0)) = true) : ∀ i, i < n → m.walkerSees ft asid (va + 8 * i) (d.getD i 0) :=
  fun i hi => walker_sees_of (List.all_eq_true.mp h i (List.mem_range.mpr hi))

/-- A record of `n` bytes of which these are not zero. -/
def record (n : Nat) (l : List (Nat × Byte)) : List Byte := (List.range n).map fun i => ((l.find? fun p => p.1 == i).map fun p => p.2).getD 0

/-! ### Control flow and waits -/

/-- The address 2^57, too high for any branch, and one that is no multiple of 8, in g2:g3 and g4:g5. -/
def pointers : Thread := running [(0, 0x1000), (3, 0x02000000), (4, 0x1004)]

theorem witness_BranchesGoOn :
    let b := blockOf { running [(0, 0x1000)] with stack := [0x2000] }
    (onBlock b).runs always (envOf b) (b.thread 0) ∧ vaBad (branchTarget 0 1) = false ∧ vaBad ((b.thread 0).pair 0) = false ∧ ((b.thread 0).pair 0).toNat % 8 = 0 ∧
      (b.thread 0).stack.length < 32 ∧ (b.thread 0).stack = [] ++ [0x2000] ∧ vaBad 0x2000 = false ∧ (0x2000 : DWord).toNat % 8 = 0 ∧
      vaBad (0x01FFFFFFFFFFFFF8 : DWord) = false ∧ List.length (List.replicate 31 (0 : DWord)) < 32 := by
  simp only [State.runs, State.answers, State.hasCtx]; decide +kernel
theorem witness_BadBranchesAndTrapsFault :
    let b := blockOf { pointers with stack := List.replicate 32 0 }
    (onBlock b).runs always (envOf b) (b.thread 0) ∧ (onBlock b).hasCtx 0 (bareContext 0) ∧ vaBad (branchTarget 0 0xFFFFFFFE) = true ∧ (b.thread 0).stack.length = 32 ∧
      ((b.thread 0).pair 4).toNat % 8 ≠ 0 ∧ vaBad ((b.thread 0).pair 2) = true ∧ ((b.thread 0).pair 2).toNat % 8 = 0 := by
  simp only [State.runs, State.answers, State.hasCtx]; decide +kernel
/-- A RET to the address 2^57 and one to 12; a CALL with 31 entries. -/
theorem witness_BadBranchesAndTrapsFault_ret :
    let b (pc : DWord) : Block := blockOf { pointers with stack := [] ++ [pc] }
    (∀ pc ∈ [(0x0200000000000000 : DWord), 12], (onBlock (b pc)).runs always (envOf (b pc)) ((b pc).thread 0) ∧ ((b pc).thread 0).stack = [] ++ [pc]) ∧ vaBad (0x0200000000000000 : DWord) = true ∧
      (vaBad (12 : DWord) = false ∧ (12 : DWord).toNat % 8 ≠ 0) ∧ (List.replicate 31 (0 : DWord)).length ≠ 32 :=
  ⟨fun _ _ => ⟨⟨rfl, rfl⟩, rfl⟩, by decide +kernel, by decide +kernel, by decide +kernel⟩
theorem witness_ThreadsExit : (onBlock bareBlock).runs always (envOf bareBlock) (bareBlock.thread 0) ∧ (bareBlock.thread 0).stack = [] := ⟨runs_bare, rfl⟩
/-- A set of slots 0 and 1 whose other member has signed; the same where a third has not. -/
def signedSet (m : DWord) : Block :=
  { bareBlock with
    threads := [(0, running [(0, 3)]), (1, { Fresh.thread with st := .stitch, sgn := 1, signPend := 5, pend := [{ id := 5, dst := [4], dead := [], val := none }] }), (2, { Fresh.thread with st := .ready })]
    stitches := [(0, { Fresh.stitch with mask := true, cnt := 1, memb := m, setr := true, open_ := true, count := 1, signed := 2, signers := [(1, 5)] })] }
theorem witness_ThreadsExit_sets : ∀ m ∈ [(3 : DWord), 7],
    let b := signedSet m
    let y := b.stitch 0
    (onBlock b).runs always (envOf b) (b.thread 0) ∧ (y.mask = true ∧ y.member 0 = true ∧ y.open_ = true ∧ y.setr = true ∧ (b.thread 1).st = .stitch) ∧
      (((List.range 64).all fun j => !y.memb.getLsbD j || y.signed.getLsbD j || j == 0 || decide ((b.thread j).st = .exited)) = decide (m = 3)) ∧ (b.stitch 1).signers = [] := by
  simp only [List.forall_mem_cons]
  exact ⟨⟨⟨rfl, rfl⟩, by decide +kernel⟩, ⟨⟨rfl, rfl⟩, by decide +kernel⟩, by simp⟩

theorem witness_StepWritesAndHolds :
    (onCore { Fresh.core with blocks := [bareBlock] } cutting).runs always (envOf bareBlock) (bareBlock.thread 0) ∧
      (onCore { Fresh.core with blocks := [bareBlock] } cutting).hasCtx (envOf bareBlock).blk.asid cutting := by
  simp only [State.runs, State.answers, State.hasCtx]; decide +kernel

/-- The largest count of signatures, and the smallest. -/
theorem witness_StitchEventAndKnotWaits_sign :
    let b := blockOf (running [(0, 2048)])
    (onBlock b).runs always (envOf b) (b.thread 0) ∧ b.stitch 0 = Fresh.stitch ∧ (b.thread 0).sgn.getLsbD 0 = false ∧ 2 ≤ ((b.thread 0).reg 0).toNat ∧
      ((b.thread 0).reg 0).toNat ≤ 2048 := ⟨⟨rfl, rfl⟩, rfl, rfl, by decide +kernel, by decide +kernel⟩

/-- A set of slots 0 and 1 in a block of two threads. -/
theorem witness_StitchEventAndKnotWaits_mask :
    let b : Block := { bareBlock with threads := [(0, running [(0, 3)]), (1, { Fresh.thread with st := .ready })] }
    let f : RRR := { rrr with c := 2 }
    (onBlock b).runs always (envOf b) (b.thread 0) ∧ b.stitch 0 = Fresh.stitch ∧ ((b.thread 0).reg f.c.toNat).toNat = 0 ∧ ((b.thread 0).pair 0).getLsbD 0 = true ∧
      ∃ j, j < 64 ∧ j ≠ 0 ∧ ((b.thread 0).pair 0).getLsbD j = true ∧ (b.thread j).st ≠ .exited := by
  refine ⟨⟨rfl, rfl⟩, rfl, by decide +kernel, by decide +kernel, 1, by decide +kernel⟩
/-- The counts 0, 1 and 2,049, and the base 2,048, of a register that nothing has set. -/
theorem witness_StitchEventAndKnotWaits_first : ∀ v ∈ [(0 : Word), 1, 2048, 2049],
    let b := blockOf (running [(0, v)])
    ((onBlock b).runs always (envOf b) (b.thread 0) ∧ (onBlock b).hasCtx 0 (bareContext 0)) ∧ (b.thread 0).pend = [] ∧ ((b.stitch 0).decl || (b.stitch 0).setr) = false ∧
      (v ≤ 1 → max 1 v.toNat ≤ (b.stitch 0).count + 1) ∧ ((b.stitch 0).signers = []) ∧ (b.thread 0).sgn.getLsbD 0 = false ∧ (v = 2049 → 2048 < ((b.thread 0).reg 0).toNat) ∧
      (v = 2048 → 2048 ≤ ((b.thread 0).reg 0).toNat) := by
  simp only [List.forall_mem_cons]
  exact ⟨⟨⟨⟨rfl, rfl⟩, rfl⟩, by decide +kernel⟩, ⟨⟨⟨rfl, rfl⟩, rfl⟩, by decide +kernel⟩, ⟨⟨⟨rfl, rfl⟩, rfl⟩, by decide +kernel⟩, ⟨⟨⟨rfl, rfl⟩, rfl⟩, by decide +kernel⟩, by simp⟩
/-- A set of two signatures, one of them there; of three; one that this thread has signed; a mask-form set that this signature completes; each with an operation posted. -/
def halfSigned (n : Nat) : Block :=
  { bareBlock with
    threads := [(0, running [(0, 2)]), (1, { Fresh.thread with st := .stitch, sgn := 1, signPend := 5, pend := [{ id := 5, dst := [4], dead := [], val := none }] })]
    stitches := [(0, { Fresh.stitch with setr := true, open_ := true, cnt := n, count := 1, signers := [(1, 5)], posted := some (.mat (bareMat { id := 0, blk := 0, slot := 0, addr := 0, word := 0, pos := 0, after := [], bound := none } .zero 0)) })] }
theorem witness_StitchEventAndKnotWaits_completes : ∀ b ∈ [halfSigned 2, halfSigned 3, signedSet 3],
    let y := b.stitch 0
    ((onBlock b).runs always (envOf b) (b.thread 0) ∧ (onBlock b).hasCtx 0 (bareContext 0)) ∧ (b.thread 0).pend = [] ∧ (y.decl || y.setr) = true ∧ { y with open_ := true }.member 0 = true ∧
      (b.thread 0).sgn.getLsbD 0 = false ∧ (∀ p ∈ y.signers, p.1 ≠ 0) ∧ (y.signers.map (·.1)).Nodup ∧ (b.thread 1).pend.map (fun q => (q.id, q.dst, q.dead)) = [(5, [4], [])] ∧ y.backlog = [] ∧
      ((onBlock b).m.core 0).heldFor .mat = [] ∧ ((onBlock b).m.core 0).matQ.length < 128 ∧
      (y.mask = false → decide (y.cnt ≤ y.count + 1) = decide (y.cnt = 2)) := by
  simp only [List.forall_mem_cons]
  exact ⟨⟨⟨⟨rfl, rfl⟩, rfl⟩, by decide +kernel⟩, ⟨⟨⟨rfl, rfl⟩, rfl⟩, by decide +kernel⟩, ⟨⟨⟨rfl, rfl⟩, rfl⟩, by decide +kernel⟩, by simp⟩
theorem witness_StitchEventAndKnotWaits_double :
    let b : Block := { halfSigned 3 with threads := [(0, { running [] with sgn := 1 })] }
    (onBlock b).runs always (envOf b) (b.thread 0) ∧ { b.stitch 0 with open_ := true }.member 0 = true ∧ (b.thread 0).sgn.getLsbD 0 = true := ⟨⟨rfl, rfl⟩, by decide +kernel, by decide +kernel⟩
theorem witness_StitchEventAndKnotWaits_stranger :
    let b := blockOf (running [(0, 6)])
    (onBlock b).runs always (envOf b) (b.thread 0) ∧ b.stitch 0 = Fresh.stitch ∧ ((b.thread 0).reg 2).toNat = 0 ∧ ((b.thread 0).pair 0).getLsbD 0 = false := by
  simp only [State.runs, State.answers, State.hasCtx]; decide +kernel
theorem witness_StitchEventAndKnotWaits_event :
    (onBlock bareBlock).runs always (envOf bareBlock) (bareBlock.thread 0) ∧ (onBlock bareBlock).hasCtx 0 (bareContext 0) ∧
      ((onBlock bareBlock).m.core 0).eventAhead 0 0 255 = false ∧ (bareContext 0).events.getLsbD 255 = false := by
  simp only [State.runs, State.answers, State.hasCtx]; decide +kernel

/-- A block with a window of 4 KiB. -/
def windowed (t : Thread) : Block := { blockOf t with winSize := 4096 }

/-- The last knot of the window. -/
theorem witness_StitchEventAndKnotWaits_knot :
    let b := windowed (running [(0, 4080)])
    (onBlock b).runs always (envOf b) (b.thread 0) ∧ ((onBlock b).m.core 0).knotOperand b ((b.thread 0).reg 0) = .ok 4080 ∧
      (((onBlock b).m.core 0).knot 4080).gen = knotGen ((b.thread 0).reg 0) := ⟨⟨rfl, rfl⟩, rfl, by decide +kernel⟩

/-- A chain with `n` nodes waiting, before a LAUNCH. -/
def chained (n : Nat) : Context := { bareContext 0 with devQ := List.replicate n { addr := 0, core := 0, blk := 0, slot := 0, id := 0 } }
def launcher : Block := blockOf (running [(0, 128)])

theorem witness_LaunchAppends : (onCore { Fresh.core with blocks := [launcher] } (chained 255)).runs always (envOf launcher) (launcher.thread 0) ∧
    (onCore { Fresh.core with blocks := [launcher] } (chained 255)).hasCtx 0 (chained 255) ∧ vaBad ((launcher.thread 0).pair 0) = false ∧
    ((launcher.thread 0).pair 0).toNat % 128 = 0 ∧ (chained 255).devQ.length < 256 ∧ 256 ≤ (chained 256).devQ.length ∧ (chained 255).dev.cur = none :=
  ⟨⟨rfl, rfl⟩, rfl, by decide +kernel, by decide +kernel, by decide +kernel, by decide +kernel, rfl⟩
/-- The address 2^57, and 0x1004. -/
theorem witness_LaunchAppends_bad :
    let b := blockOf pointers
    (onBlock b).runs always (envOf b) (b.thread 0) ∧ (onBlock b).hasCtx 0 (bareContext 0) ∧ vaBad ((b.thread 0).pair 2) = true ∧ vaBad ((b.thread 0).pair 4) = false ∧
      ((b.thread 0).pair 4).toNat % 128 ≠ 0 := ⟨⟨rfl, rfl⟩, rfl, by decide +kernel, by decide +kernel, by decide +kernel⟩

/-! ### Memory, system and queued words -/

/-- A store outstanding for the block's slot 0, which other kinds of access and phases are made of. -/
def store0 : Access :=
  { id := 7, asid := 0, blk := 0, slot := 0, addr := 0, word := 0, pos := 0, kind := .store, stash := false, va := 0x1000, n := 4, v := 5, cmp := 0, ty := 2, order := 0,
    scope := 0, hint := 0, pend := 7, phase := .home, refusals := 0, wideDone := true, leaf := none, early := none, mark := false, wide := none,
    half := none, asked := 0, desc := none }

/-- The block's machine with accesses outstanding, from number 8 on. -/
def withAccs (b : Block) (l : List Access) : State :=
  (onCore { Fresh.core with blocks := [b], accs := l } (bareContext 0)).withDev { (onCore { Fresh.core with blocks := [b], accs := l } (bareContext 0)).m with nextId := 8 }

/-- The access that a FAIL replay names is outstanding, and it is gone. -/
theorem witness_FaultQueueAndReplay_replay : ∀ l ∈ [[store0], []],
    let s := onCore { Fresh.core with accs := l } suspendedLoad
    s.answers ∧ s.hasCtx s.m.mgmt.ctxSel suspendedLoad ∧ suspendedLoad.still ∧ ((s.m.core 0).access 7).isSome = !l.isEmpty ∧
      (∀ x ∈ suspendedLoad.tagged, x.info.susp = some (.access 0 7) ∧ x.tag = (1 : DWord).toNat % 65536) ∧ (1 : DWord).getLsbD 16 = false := by
  simp only [State.answers, State.hasCtx, Context.still]; decide +kernel

/-- A load of a .n32 at g0:g1. -/
def mem32 : MEM := { d := 4, base := 0, data := 0, ty := 2, order := 0, scope := 0, hint := 0, offset := 0 }
/-- A system word's fields, register 0 everywhere. -/
def sy : SY := { d := 4, a := 0, b := 2, sel := 0, md := 0, imm := 0 }

/-- The highest pair of words below 2^57. -/
theorem witness_MemoryWordsIssue :
    let b := blockOf (running [(0, 0xFFFFFFF8), (1, 0x01FFFFFF)])
    let s := onBlock b
    let u := withAccs b [{ store0 with kind := .skFlush }]
    (s.runs always (envOf b) (b.thread 0) ∧ vaBad (memVa (envOf b) mem32 (b.thread 0)) = false ∧ (s.m.core 0).accs = [] ∧ (s.m.core 0).opsOf 0 0 = [] ∧
      (s.m.core 0).flushing 0 = false ∧ (b.thread 0).acq = [] ∧ s.m.suspended 0 (.access 0 s.m.nextId) = false ∧ (s.m.core 0).skeins = [] ∧ (s.m.core 0).tlb = []) ∧
      u.runs always (envOf b) (b.thread 0) ∧ (∃ a ∈ (u.m.core 0).accs, a.blk = 0 ∧ a.slot = 0 ∧ a.id < u.m.nextId ∧ a.kind.skein = true) ∧
      (memVa (envOf b) mem32 (b.thread 0)).toNat % (2 * tySize mem32.ty) = 0 := by
  simp only [State.runs, State.answers, State.hasCtx]; decide +kernel

/-- Addresses 4 above a multiple of 8 and 8 above one of 16, of CAS and CAS128; a stash offset that is no multiple of the size. -/
theorem witness_BadAddressesFault_wide :
    let b := windowed (running [(0, 0x1004), (2, 0x1008)])
    vaBad (memVa (envOf b) mem32 (b.thread 0)) = false ∧ (memVa (envOf b) mem32 (b.thread 0)).toNat % tySize mem32.ty = 0 ∧ (memVa (envOf b) mem32 (b.thread 0)).toNat % (2 * tySize mem32.ty) ≠ 0 ∧
      (memVa (envOf b) { mem32 with base := 2, ty := 11 } (b.thread 0)).toNat % 16 ≠ 0 := by decide +kernel
theorem witness_BadAddressesFault :
    let b := windowed pointers
    let s := onBlock b
    s.runs always (envOf b) (b.thread 0) ∧ s.hasCtx 0 (bareContext 0) ∧ vaBad (memVa (envOf b) { mem32 with base := 2 } (b.thread 0)) = true ∧
      vaBad (memVa (envOf b) { mem32 with base := 4, offset := 1 } (b.thread 0)) = false ∧ (memVa (envOf b) { mem32 with base := 4, offset := 1 } (b.thread 0)).toNat % 2 = 1 ∧
      tySize mem32.ty % 2 = 0 ∧ memStashOff (envOf b) { mem32 with base := 2, offset := 0xFFFC } (b.thread 0) < 0 ∧
      (b.winSize : Int) < memStashOff (envOf b) { mem32 with base := 2, offset := 4096 } (b.thread 0) + tySize mem32.ty ∧
      (memStashOff (envOf b) { mem32 with base := 2, offset := 2 } (b.thread 0)).toNat % tySize mem32.ty ≠ 0 ∧ vaBad ((b.thread 0).pair 2) = true ∧ vaBad ((b.thread 0).pair 4) = false ∧
      ((b.thread 0).pair 4).toNat % 32 ≠ 0 := by
  simp only [State.runs, State.answers, State.hasCtx]; decide +kernel

/-- The window's last word; its last knot. -/
theorem witness_StashFenceAndSystemWordsIssue :
    let b := windowed (running [(0, 4080)])
    let u := withAccs b [{ store0 with kind := .skFlush }]
    let f : MEM := { mem32 with offset := 12 }
    u.runs always (envOf b) (b.thread 0) ∧ (∃ a ∈ (u.m.core 0).accs, a.blk = 0 ∧ a.slot = 0 ∧ a.id < u.m.nextId ∧ a.kind.skein = true) ∧
      0 ≤ memStashOff (envOf b) f (b.thread 0) ∧ memStashOff (envOf b) f (b.thread 0) + tySize f.ty ≤ b.winSize ∧ (memStashOff (envOf b) f (b.thread 0)).toNat % tySize f.ty = 0 ∧
      (u.m.core 0).knotOperand b ((b.thread 0).reg 0) = .ok 4080 ∧ sy.md.getLsbD 4 = false ∧ vaBad ((b.thread 0).pair 2) = false ∧ ((b.thread 0).pair 2).toNat % 32 = 0 := by
  refine ⟨⟨rfl, rfl⟩, by decide +kernel, by decide +kernel, by decide +kernel, by decide +kernel, rfl, by decide +kernel⟩

theorem witness_StashWordsPerform :
    let b := windowed (running [(0, 4080)])
    let s := onBlock b
    let f : MEM := { mem32 with offset := 12 }
    s.runs always (envOf b) (b.thread 0) ∧ (s.m.core 0).accs = [] ∧ (s.m.core 0).opsOf 0 0 = [] ∧ (s.m.core 0).flushing 0 = false ∧ (b.thread 0).acq = [] ∧
      s.m.suspended 0 (.access 0 s.m.nextId) = false ∧ (s.m.core 0).skeins = [] ∧ 0 ≤ memStashOff (envOf b) f (b.thread 0) ∧
      memStashOff (envOf b) f (b.thread 0) + tySize f.ty ≤ b.winSize ∧ (memStashOff (envOf b) f (b.thread 0)).toNat % tySize f.ty = 0 ∧ s.m.poisoned = [] ∧
      (b.thread 0).pend = [] := by
  simp only [State.runs, State.answers, State.hasCtx]; decide +kernel
/-- The last 16 bytes of the window, in two halves. -/
theorem witness_StashWordsPerform_halves :
    let b := windowed (running [(0, 4080)])
    let f : MEM := { mem32 with ty := 11 }
    tySize f.ty = 16 ∧ 0 ≤ memStashOff (envOf b) f (b.thread 0) ∧ memStashOff (envOf b) f (b.thread 0) + tySize f.ty ≤ b.winSize ∧ (memStashOff (envOf b) f (b.thread 0)).toNat % tySize f.ty = 0 := by
  decide +kernel

/-! ### Words that perform or queue -/

/-- The result of an operation that went through, with a check of what it left. -/
def okAnd {α : Type} (x : Except Stop α × Dev) (p : α → Dev → Bool) : Bool := match x with | (.ok a, m) => p a m | _ => false

theorem ok_of {α : Type} {x : Except Stop α × Dev} {p : α → Dev → Bool} (h : okAnd x p = true) : ∃ a m, x = (.ok a, m) ∧ p a m = true := by
  obtain ⟨r, m⟩ := x
  cases r with
  | ok a => exact ⟨a, m, rfl, h⟩
  | error e => cases h

/-- The operand of the memory words is 0x1000, in g0:g1; what page0 gives for it. -/
def accessor : Block := windowed (running [(0, 0x1000), (4, 1), (5, 2)])
def pg0 : Page := leaf0.pageOf 0 0x1000
/-- A core with a translated page and nothing else; one whose L1 holds the bytes; one whose page is private. -/
def cores0 : List (Core → Core) := [fun c => c, fun c => { c with l1 := inL1 0x1000 [1, 2, 3, 4] }, fun c => { c with tlb := [{ page0 with d1 := 0 }] }]

/-- The operand is a multiple of 16 and of twice the size that every word accesses. -/
theorem witness_MemoryWordsIssue_complete : ∀ f ∈ cores0,
    let s := withPage accessor f
    s.runs always (envOf accessor) (accessor.thread 0) ∧ s.quiet (envOf accessor) (accessor.thread 0) ∧ (s.m.core 0).skeins = [] ∧ (s.m.core 0).requests < 1024 ∧
      (∀ p ∈ (accessor.thread 0).pend, p.id ≠ s.m.nextId) ∧ vaBad (memVa (envOf accessor) mem32 (accessor.thread 0)) = false ∧
      (memVa (envOf accessor) mem32 (accessor.thread 0)).toNat = 0x1000 ∧ tySize mem32.ty = 4 ∧ tySize { mem32 with ty := 11 }.ty = 16 := by
  simp only [State.runs, State.quiet]; decide +kernel
theorem witness_MemoryWordsIssue_page : pg0.simple ∧ (∀ n ∈ [4, 16], (withPage accessor id).m.atRest pg0.loc n) ∧
    ∀ need ∈ [Need.read, .write, .both], (withPage accessor id).m.mapped Fresh.features 0 0 0x1000 need pg0 := by
  have h1 : ∀ n ∈ [4, 16], restB (withPage accessor id).m pg0.loc n = true := by decide +kernel
  have h2 : ∀ need ∈ [Need.read, .write, .both], mappedB (withPage accessor id).m Fresh.features 0 0 0x1000 need pg0 = true := by decide +kernel
  exact ⟨by unfold Page.simple; decide +kernel, fun n h => at_rest_of (h1 n h), fun n h => mapped_of (h2 n h)⟩
theorem witness_MemoryWordsIssue_lines :
    let s := withPage accessor fun c => { c with l1 := inL1 0x1000 [1, 2, 3, 4] }
    let u := withPage accessor fun c => { c with tlb := [{ page0 with d1 := 0 }] }
    let pg := leafPrivate.pageOf 0 0x1000
    (s.m.mapped s.feat 0 0 0x1000 .read pg0 ∧ mem32.hint ≠ 3 ∧ pg0.comp = none ∧ (s.m.core 0).l1Bytes pg0.loc 4 = some [1, 2, 3, 4]) ∧
      u.m.mapped u.feat 0 0 0x1000 .write pg ∧ pg.cc = 0 ∧ pg.comp = none ∧ u.m.lineWatched pg.loc = false ∧ u.m.linkUp u.feat pg.loc = true ∧ u.m.alone :=
  ⟨⟨mapped_of (by decide +kernel), by decide +kernel⟩, mapped_of (by decide +kernel), by unfold Dev.alone; decide +kernel⟩

theorem witness_SystemWordsPerform :
    let b := windowed (running [(0, 4080), (2, 0x0FFFFFFF)])
    let s := withPage b id
    s.runs always (envOf b) (b.thread 0) ∧ s.quiet (envOf b) (b.thread 0) ∧ (s.m.core 0).skeins = [] ∧ s.hasCtx 0 (bareContext 0) ∧ (s.m.core 0).l1 = [] ∧ s.m.l2 = [] ∧
      (bareContext 0).main.node = none ∧ (bareContext 0).dev.node = none ∧ (s.m.core 0).knotOperand b ((b.thread 0).reg 0) = .ok 4080 ∧
      ((b.thread 0).reg 2).toNat ≤ 268435455 ∧ sy.md.getLsbD 4 = false ∧ sy.imm.toNat ≤ ((s.m.core 0).knot 4080).pending ∧ (b.thread 0).pend = [] := by
  simp only [State.quiet]
  refine ⟨⟨rfl, rfl⟩, ⟨rfl, rfl, rfl, rfl, rfl⟩, rfl, rfl, rfl, rfl, rfl, rfl, rfl, by decide +kernel, rfl, by decide +kernel, rfl⟩
/-- A count of 2^28, and an arrival of 1 on a knot with none pending. -/
theorem witness_SystemWordsPerform_bad :
    let b := windowed (running [(0, 4080), (2, 0x10000000)])
    let s := withPage b id
    s.runs always (envOf b) (b.thread 0) ∧ (s.m.core 0).knotOperand b ((b.thread 0).reg 0) = .ok 4080 ∧ 268435455 < ((b.thread 0).reg 2).toNat ∧ { sy with imm := 1 }.md.getLsbD 4 = false ∧
      ((s.m.core 0).knot 4080).pending < { sy with imm := 1 }.imm.toNat := ⟨⟨rfl, rfl⟩, rfl, by decide +kernel, by decide +kernel, by decide +kernel⟩
/-- A descriptor of one word: base 0x2000, stride 4, MODE 1, len 1, count 1. -/
def skDesc : List Byte := record 32 [(1, 0x20), (8, 4), (14, 4), (20, 1)]
theorem witness_SystemWordsPerform_map :
    let s := withPage accessor fun c => { c with l1 := inL1 0x1000 skDesc }
    let d (i : Nat) : DWord := BitVec.ofNat 64 (ofBytes ((skDesc.drop (8 * i)).take 8))
    let x := skeinOf (d 0) (d 1) (d 2) (d 3) 0 0 accessor.winBase
    (s.runs always (envOf accessor) (accessor.thread 0) ∧ s.quiet (envOf accessor) (accessor.thread 0) ∧ s.hasCtx 0 (bareContext 0) ∧ (s.m.core 0).skeins = [] ∧
      ((accessor.thread 0).pair sy.a.toNat).toNat = 0x1000 ∧ skDesc.length = 32 ∧ skeinShape (d 0) (d 1) (d 2) x accessor.winSize = none ∧ s.m.skPending 0 = []) ∧
      s.m.readsBy s.feat 0 0 0x1000 8 skDesc :=
  ⟨by simp only [State.runs, State.quiet, State.hasCtx]; decide +kernel, reads_by_of (by decide +kernel)⟩

/-- The block's own entry, clean and dirty; a detached one; another block's; another context's. -/
def entryOf (asid : Nat) (blk : Option Nat) (st : SegState) : Skein :=
  { asid := asid, blk := blk, base := 0x3000, stride := 4, foff := 0, len := 1, count := 1, soff := 64, mode := 1, aff := 0, win := 0, leaving := false
    segs := [(0, { st := st, wb := none, words := [{ at_ := 64, pa := 0x3000, cc := 2, key := 0, owner := true, sharer := false, dirty := st == .dirty, written := false, comp := none, cg := 0, heat := none }] })] }
theorem witness_SystemWordsPerform_entries : ∀ p ∈ [(entryOf 0 (some 0) .clean, 1), (entryOf 0 (some 0) .dirty, 1), (entryOf 0 none .dirty, 3), (entryOf 0 (some 5) .clean, 2), (entryOf 1 none .clean, 4)],
    let s := withPage accessor fun c => { c with l1 := inL1 0x1000 skDesc, skeins := [(0, some p.1)] }
    let d (i : Nat) : DWord := BitVec.ofNat 64 (ofBytes ((skDesc.drop (8 * i)).take 8))
    let y := skeinOf (d 0) (d 1) (d 2) (d 3) 0 0 accessor.winBase
    (s.runs always (envOf accessor) (accessor.thread 0) ∧ s.quiet (envOf accessor) (accessor.thread 0) ∧ s.hasCtx 0 (bareContext 0) ∧ mget none (s.m.core 0).skeins 0 = some p.1 ∧
      p.1.leaving = false ∧ s.m.entryState 0 0 0 0 = p.2 ∧ (s.m.segData 0 0 0 ≠ [] ↔ p.1 = entryOf 0 (some 0) .dirty ∨ p.1 = entryOf 0 none .dirty) ∧ (∀ q ∈ p.1.segs, q.2.wb = none) ∧
      (∀ i, i < 4 → (s.m.core 0).route 0 (0x1000 + 8 * i) 8 = none) ∧ s.m.skPending 0 = [] ∧ skeinShape (d 0) (d 1) (d 2) y accessor.winSize = none ∧
      (s.m.core 0).skeinClash 0 y = false ∧ sy.sel.toNat % 64 = 0 ∧ ((accessor.thread 0).pair sy.a.toNat).toNat = 0x1000) := by
  simp only [State.runs, State.quiet, State.hasCtx]; decide +kernel
theorem witness_SystemWordsPerform_record : ∀ p ∈ [entryOf 0 (some 0) .clean, entryOf 0 none .dirty],
    (withPage accessor fun c => { c with l1 := inL1 0x1000 skDesc, skeins := [(0, some p)] }).m.readsBy Fresh.features 0 0 0x1000 8 skDesc := by
  simp only [List.forall_mem_cons]
  exact ⟨reads_by_of (by decide +kernel), reads_by_of (by decide +kernel), by simp⟩

/-- The operands of a VADD that takes one segment at 64 and one at 128 to the window's last segment. -/
def sweeper : Block := windowed (running [(4, 4032), (5, 64), (6, 128)])
def sw : SW := { n := 1, d := 4, a := 5, b := 6, sd := 0, sa := 0, sb := 0, sat := 0 }

theorem witness_QueueWords_sweep :
    (onBlock sweeper).runs always (envOf sweeper) (sweeper.thread 0) ∧ ((onBlock sweeper).m.core 0).heldFor .sweep = [] ∧ ((onBlock sweeper).m.core 0).sweepQ.length < 64 ∧
      (∀ k ∈ [SweepKind.add, .mul, .fma, .max, .exp, .copy, .sum, .rms, .smb], (sweepOf (envOf sweeper) (sweeper.thread 0) sw k 0).bad sweeper = false) ∧ sw.n ≠ 0 ∧
      (sweepOf (envOf sweeper) (sweeper.thread 0) { sw with n := 0 } .add 0).bad sweeper = false := by
  simp only [State.runs, State.answers, State.hasCtx]; decide +kernel
/-- An offset of 65; a run of two segments that leaves the window by 64 bytes. -/
theorem witness_QueueWords_bad : ∀ p ∈ [((65 : Word), sw), (4032, { sw with n := 2, sd := 1 })],
    let b := windowed (running [(4, p.1), (5, 64), (6, 128)])
    (onBlock b).runs always (envOf b) (b.thread 0) ∧ (onBlock b).hasCtx 0 (bareContext 0) ∧
      ∀ k ∈ [SweepKind.add, .mul, .fma, .max, .exp, .copy], (sweepOf (envOf b) (b.thread 0) p.2 k 0).bad b = true := by
  simp only [State.runs, State.hasCtx]; decide +kernel
theorem witness_QueueWords : (onBlock bareBlock).runs always (envOf bareBlock) (bareBlock.thread 0) ∧
    ((onBlock bareBlock).m.core 0).heldFor .mat = [] ∧ ((onBlock bareBlock).m.core 0).heldFor .ply = [] ∧ ((onBlock bareBlock).m.core 0).matQ.length < 128 ∧ ((onBlock bareBlock).m.core 0).plyQ.length < 64 := by
  simp only [State.runs, State.answers, State.hasCtx]; decide +kernel

/-- An operation's origin. -/
def org0 : Origin := { id := 7, blk := 0, slot := 0, addr := 0, word := 0, pos := 0, after := [], bound := none }
def ply0 : PlyOp := { org := org0, kind := .free, map := 0, d := 0, a := 0, b := 0, c := 0, ty := 10, obtains := false, got := none }
def sweep0 : SweepOp := sweepOf (envOf sweeper) (sweeper.thread 0) sw .copy 7

/-- A copy, and a transfer word's fields. -/
def copyOp : XferOp := { org := org0, comet := false, sh := 0x1000, hd := 0, kn := none, args := [], cid := 0, pend := 0, entry := 0 }
def tx : TX := { shape := 0, hd := 2, tok := 4, arg := 8, kn := 0, mode := 0 }

theorem witness_QueueWords_full :
    let c := { Fresh.core with blocks := [sweeper], matQ := List.replicate 128 (bareMat org0 .zero 0), sweepQ := List.replicate 64 sweep0, plyQ := List.replicate 64 ply0 }
    let s := onCore { c with xferQ := List.replicate 256 copyOp } (bareContext 0)
    s.runs always (envOf sweeper) (sweeper.thread 0) ∧ (s.m.core 0).sweepQ.length = 64 ∧ (s.m.core 0).matQ.length = 128 ∧ (s.m.core 0).plyQ.length = 64 ∧ (s.m.core 0).xferQ.length = 256 ∧ sw.n ≠ 0 :=
  ⟨⟨rfl, rfl⟩, rfl, rfl, rfl, List.length_replicate, by decide⟩
/-- Another thread's words are held. -/
theorem witness_QueueWords_behind :
    let b := { sweeper with threads := sweeper.threads ++ [(1, { Fresh.thread with held := [.mat (bareMat org0 .zero 0), .sweep sweep0, .ply ply0, .xfer copyOp] })] }
    (onBlock b).runs always (envOf b) (b.thread 0) ∧ (sweepOf (envOf b) (b.thread 0) sw .add 0).bad b = false ∧ tx.mode.getLsbD 0 = false ∧
      ∀ q ∈ [HeldFor.sweep, .mat, .ply, .xfer], ((onBlock b).m.core 0).heldFor q ≠ [] := by simp only [State.runs]; decide +kernel
theorem witness_QueueWords_bound :
    let b : Block := { bareBlock with stitches := [(15, { Fresh.stitch with posted := some (.ply ply0) })] }
    (onBlock b).runs always (envOf b) (b.thread 0) ∧ (onBlock b).hasCtx 0 (bareContext 0) ∧ (b.stitch 14).posted = none ∧ (b.stitch 15).posted.isSome ∧
      ({ sy with md := 0x1F }.md.getLsbD 4 = true ∧ { sy with md := 0x1F }.md.toNat % 16 = 15 ∧ { sy with md := 0x1E }.md.toNat % 16 = 14) := by
  simp only [State.runs, State.answers, State.hasCtx]; decide +kernel

theorem witness_QueueWords_knot :
    let b := windowed (running [(0, 4080)])
    (onBlock b).runs always (envOf b) (b.thread 0) ∧ ((onBlock b).m.core 0).knotOperand b ((b.thread 0).reg 0) = .ok 4080 := ⟨⟨rfl, rfl⟩, rfl⟩
/-- Four free names of a launch of AMAX 96, above 92 reserved ones. -/
theorem witness_TileNamesAndRestartLabels :
    let b : Block := { bareBlock with rec_ := { bareRecord with amax := 96 }, tiles := (List.range 92).map fun i => (i, some .reserved) }
    (onBlock b).runs always (envOf b) (b.thread 0) ∧ 92 + 4 ≤ b.rec_.amax ∧ (∀ i, i < 4 → b.nameFree (92 + i) = true) ∧
      (∀ g, g < 92 → ∃ i, i < 4 ∧ b.nameFree (g + i) = false) ∧ b.tiles.length + 4 ≤ b.rec_.amax := by
  refine ⟨⟨rfl, rfl⟩, by decide, by decide +kernel, ?_, by decide +kernel⟩
  have h : ∀ g, g < 92 → (({ bareBlock with rec_ := { bareRecord with amax := 96 }, tiles := (List.range 92).map fun i => (i, some TileName.reserved) } : Block).nameFree (g + 0)) = false := by
    decide +kernel
  exact fun g hg => ⟨0, by decide, h g hg⟩
/-- One name more than the limit of 96; a second name of a launch of AMAX 2 whose one free name lies above the reserved one. -/
theorem witness_TileNamesAndRestartLabels_none : ∀ p ∈ [((96 : Nat), (List.range 92).map fun i => (i, some TileName.reserved), 5), (2, [(0, some .reserved)], 2)],
    let b : Block := { bareBlock with rec_ := { bareRecord with amax := p.1 }, tiles := p.2.1 }
    (onBlock b).runs always (envOf b) (b.thread 0) ∧ (onBlock b).hasCtx 0 (bareContext 0) ∧ b.rec_.amax < b.tiles.length + p.2.2 ∧
      ∀ g, g ≤ 96 → g + p.2.2 ≤ b.rec_.amax → ∃ i, i < p.2.2 ∧ b.nameFree (g + i) = false := by
  simp only [State.runs, State.hasCtx]; decide +kernel
theorem witness_TileNamesAndRestartLabels_label : labelBad 0x01FFFFFFFFFFFFF8 = false ∧ labelBad 4 = true ∧ labelBad 0x0200000000000000 = true ∧
    (onBlock bareBlock).hasCtx 0 (bareContext 0) := by
  simp only [State.runs, State.answers, State.hasCtx]; decide +kernel

/-- A thread with an unsealed copy in the queue, in a launch with a comet reserve. -/
def transferrer : Block := { blockOf { running [] with unsealed := [7] } with rec_ := { bareRecord with cres := 1 } }

theorem witness_TransferAndPrefetchWords_transfer :
    let s := onCore { Fresh.core with blocks := [transferrer], xferQ := [copyOp] } (bareContext 0)
    s.runs always (envOf transferrer) (transferrer.thread 0) ∧ (s.m.core 0).heldFor .xfer = [] ∧ (transferrer.thread 0).held = [] ∧ (s.m.core 0).xferQ.length < 256 ∧ tx.mode.getLsbD 0 = false ∧
      transferrer.rec_.cres ≠ 0 ∧ (transferrer.thread 0).comet = none ∧ ((transferrer.thread 0).pair tx.hd.toNat).toNat % 8 = 0 ∧ (transferrer.thread 0).batches = [] ∧
      (transferrer.thread 0).unsealed ≠ [] ∧ (∀ i ∈ (transferrer.thread 0).unsealed, (s.m.core 0).copyOpen (transferrer.thread 0) i = true) := by
  simp only [State.runs, State.answers, State.hasCtx]; decide +kernel
/-- With the last knot of the window; with one that would leave it, one of a block without a reserve, one of a comet thread, and a handler at 4. -/
theorem witness_TransferAndPrefetchWords_knot : ∀ k ∈ [(4080 : Word), 4096],
    let kx : TX := { tx with kn := 6, mode := 1 }
    let b : Block := { windowed (running [(6, k)]) with rec_ := { bareRecord with cres := 1 } }
    ((onBlock b).runs always (envOf b) (b.thread 0) ∧ (onBlock b).hasCtx 0 (bareContext 0)) ∧ (kx.mode.getLsbD 0 = true ∧ b.rec_.cres ≠ 0 ∧ (b.thread 0).comet = none ∧
      ((b.thread 0).pair kx.hd.toNat).toNat % 8 = 0 ∧ ((onBlock b).m.core 0).heldFor .xfer = []) ∧
      ((onBlock b).m.core 0).knotOperand b ((b.thread 0).reg kx.kn.toNat) = if k = 4080 then .ok 4080 else .error 0x14 := by
  simp only [List.forall_mem_cons]
  exact ⟨⟨⟨⟨rfl, rfl⟩, rfl⟩, by decide +kernel, rfl⟩, ⟨⟨⟨rfl, rfl⟩, rfl⟩, by decide +kernel, rfl⟩, by simp⟩
theorem witness_TransferAndPrefetchWords_fault :
    let c := blockOf { running [] with comet := some { cid := 0, cbi := 0, cx := 0, cy := 0, cz := 0, cst := 0, read := 0 } }
    let m := { blockOf (running [(2, 4)]) with rec_ := { bareRecord with cres := 1 } }
    ((onBlock bareBlock).runs always (envOf bareBlock) (bareBlock.thread 0) ∧ bareBlock.rec_.cres = 0) ∧ ((onBlock c).runs always (envOf c) (c.thread 0) ∧ (c.thread 0).comet.isSome) ∧
      (onBlock m).runs always (envOf m) (m.thread 0) ∧ m.rec_.cres ≠ 0 ∧ (m.thread 0).comet = none ∧ ((m.thread 0).pair tx.hd.toNat).toNat % 8 ≠ 0 := by
  simp only [State.runs]; decide +kernel
theorem witness_TransferAndPrefetchWords_hint :
    (withAccs bareBlock [{ store0 with kind := .load }]).runs always (envOf bareBlock) (bareBlock.thread 0) ∧ ((withAccs bareBlock [{ store0 with kind := .load }]).m.core 0).prefs = [] ∧
      (∃ a ∈ ((withAccs bareBlock [{ store0 with kind := .load }]).m.core 0).accs, a.blk = 0 ∧ a.slot = 0 ∧ a.id < (withAccs bareBlock [{ store0 with kind := .load }]).m.nextId ∧ a.coreDone = false) := by
  simp only [State.runs, State.answers, State.hasCtx]; decide +kernel
/-- A PREF of 0x1000, in memory at rest, within its scope. -/
theorem witness_TransferAndPrefetchWords_pref :
    let s := withPage accessor id
    (s.runs always (envOf accessor) (accessor.thread 0) ∧ s.quiet (envOf accessor) (accessor.thread 0) ∧ (s.m.core 0).prefs = [] ∧ (s.m.core 0).skeins = [] ∧ s.m.live 0 = true ∧
      s.m.beyondScope s.feat 0 pg0 mem32.scope = false ∧ (s.m.core 0).requests < 1024 ∧ mem32.hint ≠ 3) ∧ pg0.simple ∧ s.m.mapped s.feat 0 0 0x1000 .read pg0 ∧ s.m.atRest (pg0.loc / 128 * 128) 128 :=
  ⟨by simp only [State.runs, State.quiet]; decide +kernel, by unfold Page.simple; decide +kernel, mapped_of (by decide +kernel), at_rest_of (by decide +kernel)⟩
/-- An address of 2^57, in g2:g3, and a record at 0x1004, in g4:g5. -/
theorem witness_TransferAndPrefetchWords_dropped :
    let b := blockOf pointers
    let s := onBlock b
    s.runs always (envOf b) (b.thread 0) ∧ s.quiet (envOf b) (b.thread 0) ∧ s.hasCtx 0 (bareContext 0) ∧
      2 ^ 57 ≤ (BitVec.ofInt 64 (((b.thread 0).pair 2).toNat + signExtend { mem32 with base := 2 }.offset.toNat 16)).toNat / tySize mem32.ty * tySize mem32.ty ∧
      ((b.thread 0).pair 4).toNat % 64 ≠ 0 := by simp only [State.runs, State.quiet, State.hasCtx]; decide +kernel
/-- A record at 0x1000 of a gathered tile of one row, its index list at 0x1100. -/
def listRecord : List Byte := record 64 [(1, 0x20), (9, 0x11), (16, 16), (20, 1), (24, 1), (40, 16), (48, 1), (56, 1), (59, 0x12)]
theorem witness_TransferAndPrefetchWords_list :
    let s := withPage accessor fun c => { c with l1 := inL1 0x1000 listRecord ++ inL1 0x1100 [0, 0, 0, 0] }
    let sh := shapeOf fun i => ofBytes ((listRecord.drop (8 * i)).take 8)
    ((s.runs always (envOf accessor) (accessor.thread 0) ∧ s.quiet (envOf accessor) (accessor.thread 0) ∧ listRecord.length = 64 ∧
      shapeReserved (fun i => ofBytes ((listRecord.drop (8 * i)).take 8)) = false ∧ sh.elog ≤ 4 ∧ sh.mode = 1 ∧ sh.early false = none ∧ sh.empty = false ∧ sh.late = none ∧ sh.ty = 1 ∧
      0 < sh.ey) ∧ s.m.readsBy s.feat 0 0 0x1000 8 listRecord) ∧ s.m.reads s.feat 0 0 (sh.idx + 4 * 0) .read (toBytes 4 0) :=
  ⟨⟨by simp only [State.runs, State.quiet]; decide +kernel, reads_by_of (by decide +kernel)⟩, reads_of (by decide +kernel)⟩
/-- The list of that record, its one element to do: an index in range, which is made; one out of range; a row whose page is not translated and not present. -/
def listRun : PrefRun :=
  { org := org0, list := true, va := 0x1000, n := 64, scope := 3, hint := 0, target := 0, left := some (shapeOf fun i => ofBytes ((listRecord.drop (8 * i)).take 8), 0 :: []) }
theorem witness_TransferAndPrefetchWords_element : ∀ p ∈ [((0 : Byte), true), (1, false)],
    let s := withPage accessor fun c => { c with l1 := inL1 0x1100 [p.1, 0, 0, 0] }
    let sh := shapeOf fun i => ofBytes ((listRecord.drop (8 * i)).take 8)
    listRun.list = true ∧ listRun.left = some (sh, 0 :: []) ∧ s.m.ctx accessor.asid = some (bareContext 0) ∧ sh.ey = 1 ∧
      okAnd ((prefElement s.feat (prefAgent 0 0 7) 0 accessor listRun.target sh 0).go s.m) (fun r _ => r == p.2) = true := by decide +kernel
theorem witness_TransferAndPrefetchWords_index :
    let sh := shapeOf fun i => ofBytes ((listRecord.drop (8 * i)).take 8)
    let s := withPage accessor fun c => { c with l1 := inL1 0x1100 [1, 0, 0, 0] }
    (sh.ey ≤ 1 ∧ (s.m.core 0).skeins = []) ∧ s.m.reads s.feat 0 0 (sh.idx + 4 * 0) .read (toBytes 4 1) := ⟨by decide +kernel, reads_of (by decide +kernel)⟩


/-! ### Courses and waits of threads -/

/-- A clause of one NOP at address 0, and the same with a word that no opcode decodes. -/
def nopClause : BufClause := { asid := 0, addr := 0, hdr := header, words := [0x0070000000000000], reads := [] }
def badClause : BufClause := { nopClause with words := [0x6F70000000000000] }
/-- A block whose thread in slot 0 stands before the clause at address 0. -/
def standing : Block := blockOf { Fresh.thread with st := .ready }
/-- A course of slot 0 that has not entered. -/
def forming : Course := { islot := 0, blk := 0, addr := 0, members := [0], entered := false, pos := 0, idx := 0, last := none }

theorem witness_CoursesForm :
    let s := onCore { Fresh.core with blocks := [standing], ibuf := [nopClause] } (bareContext 0)
    let c := { s.m.core 0 with blocks := (s.m.core 0).blocks.filter fun b => s.m.live b.asid }
    c.course 0 = none ∧ mget 0 c.hold 0 = 0 ∧ (∃ b ∈ c.blocks, ∃ p ∈ b.threads, issueSlotOf p.1 = 0 ∧ c.eligible b p.2 = true) := by
  simp only [State.runs, State.answers, State.hasCtx]; decide +kernel
theorem witness_ClausesAreEntered :
    let s := onCore { Fresh.core with blocks := [standing], ibuf := [nopClause], courses := [forming] } (bareContext 0)
    let ms := forming.members.filter fun k => standsReady standing (standing.thread k) && (standing.thread k).pc == forming.addr &&
      (s.m.core 0).mayEnter standing (standing.thread k) nopClause && (s.m.core 0).knotReady standing (standing.thread k) nopClause
    (s.m.core 0).course 0 = some forming ∧ s.m.block 0 0 = some standing ∧ (s.m.core 0).clause 0 0 = some nopClause ∧ s.m.live 0 = true ∧ headerBad nopClause.hdr = false ∧
      (∀ k ∈ forming.members, (s.m.core 0).knotFault standing (standing.thread k) nopClause = none) ∧ ms = 0 :: [] ∧ clauseFault s.feat nopClause.hdr nopClause.words = none ∧
      clauseFault s.feat badClause.hdr badClause.words = some (0x11, some 0) ∧ s.hasCtx 0 (bareContext 0) := by
  simp only [State.runs, State.answers, State.hasCtx]; decide +kernel

/-- A clause of one NOP in memory at address 0, and an illegal header at 0x100. -/
def inMemory : State := (withPage standing id).withDev { (withPage standing id).m with mem := [(6, 0xFF), (14, 0x70), (0x100, 1)] }

theorem witness_ClausesAreFetched : ∃ hdr m1,
    (fetchDWord inMemory.feat 0 0 (standing.fetchCharge 0 0 0 0) 0).go inMemory.m = (.ok hdr, m1) ∧
      (fun (h : DWord) (m1 : Dev) => !headerBad h && okAnd ((fetchWords inMemory.feat 0 0 (standing.fetchCharge 0 0 0 h) 0 (headerOf h).count).go m1) fun _ _ => true) hdr m1 = true :=
  ok_of (by decide +kernel)
theorem witness_ClausesAreFetched_stands :
    inMemory.m.block 0 0 = some standing ∧ standsReady standing (standing.thread 0) = true ∧ inMemory.m.live 0 = true ∧ (inMemory.m.core 0).clause 0 0 = none ∧
      inMemory.m.fetchSuspended 0 0 0 = false := by decide +kernel
theorem witness_ClausesAreFetched_bad : ∃ hdr m1,
    (fetchDWord inMemory.feat 0 0 (standing.fetchCharge 0 0 0x100 0) 0x100).go inMemory.m = (.ok hdr, m1) ∧
      (fun (h : DWord) (m1 : Dev) => headerBad h && (m1.ctx 0).isSome) hdr m1 = true := ok_of (by decide +kernel)
/-- The same where a line of the buffer holds the header and L1 the word; where L1 holds an illegal header. -/
theorem witness_ClausesAreFetched_held :
    let s := withPage standing fun c => { c with lines := [{ asid := 0, line := 0, data := [(0, some header)] }], l1 := inL1 8 (toBytes 8 0x0070000000000000) }
    ((s.m.block 0 0 = some standing ∧ standsReady standing (standing.thread 0) = true ∧ s.m.live 0 = true ∧ (s.m.core 0).clause 0 0 = none ∧ s.m.fetchSuspended 0 0 0 = false) ∧
      (s.m.core 0).bufWord 0 0 = some header ∧ headerBad header = false ∧ (headerOf header).count = 1 ∧ (s.m.core 0).bufWord 0 8 = none) ∧
      s.m.reads s.feat 0 0 8 .fetch (toBytes 8 0x0070000000000000) := ⟨by decide +kernel, reads_of (by decide +kernel)⟩
theorem witness_ClausesAreFetched_illegal :
    let s := withPage standing fun c => { c with l1 := inL1 0 (toBytes 8 1) }
    ((s.m.core 0).bufWord 0 0 = none ∧ headerBad (1 : DWord) = true ∧ s.hasCtx 0 (bareContext 0)) ∧ s.m.reads s.feat 0 0 0 .fetch (toBytes 8 1) :=
  ⟨by simp only [State.hasCtx]; decide +kernel, reads_of (by decide +kernel)⟩
theorem witness_ClausesAreFetched_overdue :
    let b := blockOf { Fresh.thread with st := .ready, age := 4096 }
    let s := onCore { Fresh.core with blocks := [b], ibuf := [nopClause] } (bareContext 0)
    s.m.block 0 0 = some b ∧ (s.m.core 0).eligible b (b.thread 0) = true ∧ b.rec_.nofair = false ∧ b.rec_.fairwin ≤ (b.thread 0).age ∧ (b.thread 0).overdueAt = none := by decide +kernel

/-- A value of a pair that a later write has overtaken in its upper register. -/
theorem witness_ResultsArriveAndTimeoutsWithdraw_arrive :
    let p : Pending := { id := 3, dst := [4, 5], dead := [5], val := some [1, 2] }
    let b := blockOf { running [] with pend := [p] }
    (onBlock b).m.thread 0 0 0 = some (b.thread 0) ∧ (onBlock b).m.recordsWait ((onBlock b).m.followRun 0 0 0) = false ∧ ((b.thread 0).pend.find? fun q => q.id == 3) = some p ∧ p.val = some [1, 2] ∧ [(1 : Word), 2].length = p.dst.length ∧
      p.dst.Nodup := by decide +kernel
theorem witness_ResultsArriveAndTimeoutsWithdraw_timeout :
    let p : Pending := { id := 3, dst := [4], dead := [], val := none }
    let b := blockOf { Fresh.thread with st := .stitch, tmo := some 0, signPend := 3, pend := [p] }
    (onBlock b).m.block 0 0 = some b ∧ b.bst = .running ∧ (b.thread 0).st = .stitch ∧ (b.thread 0).tmo = some 0 ∧ (onBlock b).m.cycleOver 0 = true ∧ (∃ p ∈ (b.thread 0).pend, p.id = (b.thread 0).signPend) ∧
      ((b.thread 0).pend.find? fun p => p.id == (b.thread 0).signPend).elim [] Pending.dst = [4] ∧ (∀ p ∈ (b.thread 0).pend, 4 ∉ p.dead) := by decide +kernel

/-- A watch of the word at 0x1000 for a change from 0. -/
def watch0 (w : Bool) (p : Option Nat) : WatchWait :=
  { va := 0x1000, n := 4, cmp := 0, order := 0, scope := 0, at_ := none, woken := w, poll := p, addr := 0, word := 0, pos := 0 }
def watcher (w : WatchWait) : Block := blockOf { Fresh.thread with st := .memWatch, watch := some w }

theorem witness_WaitsForMemory_park :
    let b := blockOf (running [(0, 0x1000)])
    let u := withAccs b [{ store0 with kind := .skFlush }]
    u.runs always (envOf b) (b.thread 0) ∧ vaBad (memVa (envOf b) mem32 (b.thread 0)) = false ∧ (memVa (envOf b) mem32 (b.thread 0)).toNat % tySize mem32.ty = 0 ∧
      (∃ a ∈ (u.m.core 0).accs, a.blk = 0 ∧ a.slot = 0 ∧ a.id < u.m.nextId ∧ a.kind.skein = true) := by
  simp only [State.runs, State.answers, State.hasCtx]; decide +kernel
/-- A memory that holds the comparand, and one that holds another value. -/
def watchState (v : Byte) (w : WatchWait) : State := (withPage (watcher w) id).withDev { (withPage (watcher w) id).m with mem := if v = 0 then [] else [(0x1000, v)] }
theorem witness_WaitsForMemory_due : ∀ w ∈ [watch0 true none, watch0 false (some 0)],
    (withPage (watcher w) id).m.block 0 0 = some (watcher w) ∧ ((watcher w).thread 0).watch = some w ∧ ((watcher w).thread 0).st = .memWatch ∧ (watcher w).bst ≠ .stopped ∧
      (withPage (watcher w) id).m.suspended 0 (.watch 0 0 0) = false ∧ ((withPage (watcher w) id).m.core 0).gate (w.access 0 0 0 0) (((watcher w).thread 0).acquired 0) = true ∧
      (w.woken = true ∨ w.poll = some 0) := by decide +kernel
theorem witness_WaitsForMemory_same : ∃ x m1,
    (watchRead Fresh.features (threadAgent 0 { ((watch0 true none).access 0 0 0 0).charge 0 with op := 0 }) 0 0 0x1000 4).go (watchState 0 (watch0 true none)).m = (.ok x, m1) ∧
      decide (x.1 = (watch0 true none).cmp ∧ (m1.block 0 0).isSome) = true := ok_of (by decide +kernel)
theorem witness_WaitsForMemory_other : ∃ x m1,
    (watchRead Fresh.features (threadAgent 0 { ((watch0 true none).access 0 0 0 0).charge 0 with op := 0 }) 0 0 0x1000 4).go (watchState 1 (watch0 true none)).m = (.ok x, m1) ∧
      decide (x.1 ≠ (watch0 true none).cmp ∧ (m1.block 0 0).isSome) = true := ok_of (by decide +kernel)

/-- A WAITM that nothing precedes; a wake and a poll; each where memory holds the comparand and where it does not. -/
theorem witness_WaitsForMemory_direct : ∀ v ∈ [(0 : Byte), 1],
    let b := blockOf (running [(0, 0x1000)])
    let s := (withPage b id).withDev { (withPage b id).m with mem := if v = 0 then [] else [(0x1000, v)] }
    s.runs always (envOf b) (b.thread 0) ∧ b.bst ≠ .stopped ∧ vaBad (memVa (envOf b) mem32 (b.thread 0)) = false ∧ (memVa (envOf b) mem32 (b.thread 0)).toNat = 0x1000 ∧ s.quiet (envOf b) (b.thread 0) ∧
      (s.m.core 0).skeins = [] ∧ s.m.suspended 0 (.watch 0 0 0) = false ∧ (s.m.core 0).requests < 1024 ∧ mappedB s.m s.feat 0 0 0x1000 .read pg0 = true ∧ restB s.m pg0.loc 4 = true ∧
      ofBytes (s.m.homeBytes 0 pg0.loc 4) = v.toNat := by simp only [State.runs, State.quiet]; decide +kernel
theorem witness_WaitsForMemory_wakes : ∀ w ∈ [watch0 true none, watch0 false (some 0)], ∀ v ∈ [(0 : Byte), 1],
    let s := watchState v w
    s.m.block 0 0 = some (watcher w) ∧ ((watcher w).thread 0).watch = some w ∧ ((watcher w).thread 0).st = .memWatch ∧ ((watcher w).thread 0).inCourse = false ∧ (watcher w).bst ≠ .stopped ∧
      s.m.suspended 0 (.watch 0 0 0) = false ∧ (s.m.core 0).accs = [] ∧ ((watcher w).thread 0).acq = [] ∧ (s.m.core 0).skeins = [] ∧ (s.m.core 0).requests < 1024 ∧
      w.va.toNat = 0x1000 ∧ w.n = 4 ∧ mappedB s.m s.feat 0 0 0x1000 .read pg0 = true ∧ restB s.m pg0.loc 4 = true ∧ ofBytes (s.m.homeBytes 0 pg0.loc 4) = v.toNat := by decide +kernel

theorem witness_HeldWordsAreAccepted : ∀ h ∈ [HeldWord.mat (bareMat org0 .zero 0), .sweep sweep0, .ply ply0, .xfer copyOp, .seal 7 [6]],
    let b := blockOf { Fresh.thread with st := .results, held := [h] }
    let c := (onBlock b).m.core 0
    (onBlock b).m.block 0 0 = some b ∧ (onBlock b).m.live 0 = true ∧ b.bst = .running ∧ (b.thread 0).held = h :: [] ∧ c.matQ.length < 128 ∧ c.sweepQ.length < 64 ∧
      c.plyQ.length < 64 ∧ c.xferQ.length < 256 ∧ (∀ q ∈ [HeldFor.mat, .sweep, .ply, .xfer], c.turnFor q 7 = true) ∧ (b.thread 0).batches.length < 255 := by decide +kernel
theorem witness_HeldWordsAreAccepted_stitches : ∀ k, k < 16 → (bareBlock.stitch k).backlog = [] := by decide +kernel

/-! ### The units -/

/-- A block with a tile, and operations on it. -/
def tiled : Block := { windowed (running []) with tiles := [(0, some (.bound 3))] }
def mma0 : MatOp := { bareMat org0 .mma 0 with k := 32 }

theorem witness_MatrixUnitRuns_start : ∀ o ∈ [bareMat org0 .zero 0, bareMat org0 .free 0, bareMat org0 .rd 0, mma0, { mma0 with zf := true }],
    let s := onCore { Fresh.core with blocks := [tiled], matQ := [o] } (bareContext 0)
    (s.m.core 0).matQ = o :: [] ∧ (s.m.core 0).matRun = none ∧ s.m.block 0 o.org.blk = some tiled ∧ s.m.live 0 = true ∧ (s.m.core 0).accsDone 0 o.org.after = true ∧
      o.check tiled = none ∧ tiled.tile o.tile = some 3 ∧ 3 ∈ List.range 96 := by decide +kernel
theorem witness_MatrixUnitRuns_check : (bareMat org0 .zero 1).check tiled = some (Flt.plain 0x10) ∧ { mma0 with k := 31 }.check tiled = some (Flt.shape 0x50) := by decide +kernel
def reading : MatRun := { op := bareMat org0 .rd 0, j := 0, left := 0, written := 0 }
theorem witness_MatrixUnitRuns_step :
    let s := onCore { Fresh.core with blocks := [tiled], matRun := some reading } (bareContext 0)
    (s.m.core 0).matRun = some reading ∧ s.m.block 0 reading.op.org.blk = some tiled ∧ reading.left = 0 ∧ s.m.live 0 = true ∧ s.m.suspended 0 (.matrix 0 7) = false ∧
      ∃ x m1, (matStep s.feat 0 tiled reading).go s.m = (.ok x, m1) ∧ (fun (_ : Unit) (_ : Dev) => true) x m1 = true :=
  ⟨rfl, rfl, rfl, rfl, rfl, ok_of (by decide +kernel)⟩
/-- A dense k-block whose rows of 24 bytes all lie at 0x1000; a read-out to the last 3,072 bytes of the window. -/
def feeding : MatRun := { reading with op := { mma0 with aBase := 0x1000, bBase := 0x1000 } }
def emptying : MatRun := { reading with op := { reading.op with off := 1024 } }
theorem witness_MatrixUnitRuns_operands :
    let s := withPage tiled fun c => { c with matRun := some feeding, l1 := inL1 0x1000 (List.replicate 24 7) }
    ((s.m.core 0).matRun = some feeding ∧ s.m.block 0 feeding.op.org.blk = some tiled ∧ feeding.left = 0 ∧ s.m.live 0 = true ∧ s.m.suspended 0 (.matrix 0 7) = false ∧
      (s.m.core 0).skeins = [] ∧ s.m.poisoned = [] ∧ tiled.tile feeding.op.tile = some 3 ∧ feeding.op.kind = .mma ∧
      ∀ x ∈ [feeding.op.sideA tiled, feeding.op.sideB tiled], x.slot.scale = false ∧ ∀ i, i < 64 → x.base + i * x.stride + feeding.j * (32 * x.slot.fmt.bits / 8) = 0x1000 ∧
        32 * x.slot.fmt.bits / 8 = 24) ∧ s.m.sees s.feat 0 0 (fun _ => 7) 0x1000 24 := ⟨by decide +kernel, sees_of (by decide +kernel)⟩
theorem witness_MatrixUnitRuns_readout :
    let s := onCore { Fresh.core with blocks := [tiled], matRun := some emptying } (bareContext 0)
    (s.m.core 0).matRun = some emptying ∧ emptying.left = 0 ∧ (s.m.core 0).skeins = [] ∧ s.m.poisoned = [] ∧ tiled.tile emptying.op.tile = some 3 ∧ emptying.op.kind = .rd ∧
      emptying.written = 0 ∧ emptying.op.off.toNat % 64 = 0 ∧ emptying.op.off.toNat + 64 * (64 * (tiled.slot emptying.op.aslot).fmt.bits / 8) ≤ tiled.winSize := by decide +kernel
theorem witness_MatrixUnitRuns_grant :
    let b := { blockOf { Fresh.thread with st := .ready } with tiles := [(0, some .reserved)] }
    let w : AccWait := { id := 7, blk := 0, slot := 0, first := 0, n := 1, pend := 7 }
    let s := onCore { Fresh.core with blocks := [b], accWaits := [w] } (bareContext 0)
    s.m.oldestWait 0 = some (b, w) ∧ s.m.block 0 w.blk = some b ∧ w.n ≤ (s.m.core 0).freePhys.length := by decide +kernel

theorem witness_SweepUnitRuns_start :
    let s := onCore { Fresh.core with blocks := [sweeper], sweepQ := [sweep0] } (bareContext 0)
    (s.m.core 0).sweepRun = none ∧ (s.m.core 0).sweepNext = some sweep0 ∧ (s.m.core 0).block sweep0.org.blk = some sweeper ∧ s.m.live 0 = true ∧ sweeper.bst = .running ∧
      (s.m.core 0).accsDone 0 sweep0.org.after = true := by decide +kernel
/-- Of a block that has exited. -/
theorem witness_SweepUnitRuns_exited :
    let b : Block := { sweeper with bst := .exited }
    let s := onCore { Fresh.core with blocks := [b], sweepQ := [sweep0] } (bareContext 0)
    (s.m.core 0).sweepNext = some sweep0 ∧ (s.m.core 0).block sweep0.org.blk = some b ∧ b.bst = .exited := by decide +kernel
/-- The last segment of the window is the destination, the one at 64 the source. -/
theorem witness_SweepUnitRuns_step :
    let s := onCore { Fresh.core with blocks := [sweeper], sweepRun := some sweep0 } (bareContext 0)
    (s.m.core 0).sweepRun = some sweep0 ∧ s.m.block 0 sweep0.org.blk = some sweeper ∧ s.m.live 0 = true ∧ s.m.suspended 0 (.sweep 0 7) = false ∧ sweep0.kind = .copy ∧
      sweep0.spans sweeper 0 = [(64, 64), (4032, 64)] ∧ (s.m.core 0).skeins = [] ∧ s.m.poisoned = [] ∧
      ∃ x m1, (sweepIter s.feat 0 sweeper sweep0).go s.m = (.ok x, m1) ∧ (fun (_ : SweepOp) (_ : Dev) => true) x m1 = true :=
  ⟨rfl, rfl, rfl, rfl, rfl, rfl, rfl, rfl, ok_of (by decide +kernel)⟩

/-- A block with map name 0 Valid on physical map 2; a small merge, a split and a match. -/
def plied : Block := { windowed (running []) with plys := [(0, .valid 2 false)] }
def merge0 : PlyOp := { ply0 with kind := .merge, d := 1024, b := 512, c := 0x600 + 16 * 2 ^ 20 }
def split0 : PlyOp := { ply0 with kind := .split, d := 1024, a := 4032, b := 16 }
def match0 : PlyOp := { ply0 with kind := .match_, d := 1, a := 1024, b := 2, c := 16 }
def plyCore (o : PlyOp) : Core := { Fresh.core with blocks := [plied], plyQ := [o], plyStore := [(2, some { n := 2, r := 1, dest := [0] })] }

theorem witness_PlyUnitRuns_start : ∀ o ∈ [ply0, { ply0 with kind := .keep }, merge0, split0, match0],
    let s := onCore (plyCore o) (bareContext 0)
    (s.m.core 0).plyRun = none ∧ (s.m.core 0).plyNext = some o ∧ (s.m.core 0).block o.org.blk = some plied ∧ s.m.live 0 = true ∧ (s.m.core 0).accsDone 0 o.org.after = true ∧
      s.m.suspended 0 (.ply 0 7) = false ∧ o.check (s.m.core 0) plied = none ∧ s.m.plyLost s.feat plied o = false ∧ plied.ply o.map = .valid 2 false ∧ o.got = none ∧
      (s.m.core 0).skeins = [] ∧ ∀ b ∈ (s.m.core 0).blocks, b.saved = [] ∧ ∀ q ∈ b.plys, q.2 ≠ .saved := by decide +kernel
theorem witness_PlyUnitRuns_touch :
    let s := onCore (plyCore merge0) (bareContext 0)
    let m2 := s.m.modCore 0 fun x => { x.plyTake merge0 with plyRun := some merge0 }
    let z := merge0.size (s.m.core 0) plied
    ∃ x m3, (plyTouch s.feat (engineAgent 0 (merge0.charge 0)) 0 plied (merge0.inputs z.1 z.2) (merge0.outputs z.1 z.2)).go m2 = (.ok x, m3) ∧
      (fun (_ : Unit) (m : Dev) => decide ((m.core 0).blocks = [plied])) x m3 = true := ok_of (by decide +kernel)
theorem witness_PlyUnitRuns_complete : ∀ o ∈ [merge0, split0, match0],
    let s := onCore { plyCore o with plyQ := [], plyRun := some o } (bareContext 0)
    (s.m.core 0).plyRun = some o ∧ s.m.block 0 o.org.blk = some plied ∧ s.m.live 0 = true ∧ s.m.suspended 0 (.ply 0 7) = false ∧ (s.m.core 0).skeins = [] ∧ s.m.poisoned = [] ∧
      (o.kind = .match_ → o.target plied = some 2) ∧ okAnd ((plyRunOp s.feat 0 plied o).go s.m) (fun _ m1 => (m1.core 0).blocks.all fun b => decide (b.saved = []) && b.plys.all fun q => q.2 != .saved) = true := by decide +kernel
theorem witness_PlyUnitRuns_obtain :
    let b := { plied with plys := [(0, .saved)], saved := [(0, { n := 2, r := 1, dest := [0] })] }
    let o := { merge0 with obtains := true }
    let s := onCore { Fresh.core with blocks := [b], plyQ := [o] } (bareContext 0)
    ((s.m.core 0).plyLine.find? fun x => x.org.blk == 0 && x.obtains) = some o ∧ (s.m.core 0).block 0 = some b ∧ s.m.live 0 = true ∧ s.m.mapTurn 0 b = true ∧
      ∃ p m1, s.m.obtainMap 0 b = some (p, m1) := by
  refine ⟨by decide +kernel, by decide +kernel, by decide +kernel, by decide +kernel, _, _, rfl⟩
/-- No core of that machine holds a skein entry or a line; with a name Free and no map in a kept-map area a physical map is free. -/
theorem witness_PlyUnitRuns_obtain_records :
    let b := { plied with plys := [(0, .saved)], saved := [(0, { n := 2, r := 1, dest := [0] })] }
    let o := { merge0 with obtains := true }
    let u := onCore { plyCore o with blocks := [{ plied with plys := [] }] } (bareContext 0)
    ((onCore { Fresh.core with blocks := [b], plyQ := [o] } (bareContext 0)).m.bare ∧ (onCore { Fresh.core with blocks := [b], plyQ := [o] } (bareContext 0)).m.alone) ∧
      (u.m.core 0).freeMaps ≠ [] ∧ ∀ x ∈ (u.m.core 0).blocks, x.saved = [] ∧ x.plys = [] := by
  simp only [Dev.bare, Dev.alone]; decide +kernel
/-- A PLYFREE of a Saved name. -/
theorem witness_PlyUnitRuns_free :
    let b := { plied with plys := [(0, .saved)], saved := [(0, { n := 2, r := 1, dest := [0] })] }
    let s := onCore { Fresh.core with blocks := [b], plyQ := [ply0] } (bareContext 0)
    (s.m.core 0).plyRun = none ∧ (s.m.core 0).plyNext = some ply0 ∧ (s.m.core 0).block 0 = some b ∧ s.m.live 0 = true ∧ (s.m.core 0).accsDone 0 ply0.org.after = true ∧
      s.m.suspended 0 (.ply 0 7) = false ∧ ((s.m.core 0).blocks.map (·.id)).Nodup ∧ s.m.bare ∧ s.m.alone ∧ s.m.recordCause s.feat ((bareContext 0).imageAt b.image) = none ∧
      ply0.kind = .free ∧ ply0.map < 8 ∧ b.ply ply0.map = .saved := by
  simp only [Dev.bare, Dev.alone]; decide +kernel

/-! ### Transfers and blocks -/

/-- A record at 0x1000 of sixteen .n32 elements at 0x2000, to the stash for a copy. -/
def shapeRecord (stash : Byte) : List Byte := record 64 [(1, 0x20), (16, 16), (20, 1), (24, 1), (40, 16), (48, 1), (56, 1), (59, 2), (60, stash)]
def recordField (l : List Byte) (i : Nat) : Nat := ofBytes ((l.drop (8 * i)).take 8)
def cometOp : XferOp := { copyOp with comet := true, args := [1, 2, 3, 4] }
def mover : Block := { windowed (running []) with rec_ := { bareRecord with cres := 2 } }
/-- The record in L1, with an entry of the queue. -/
def transfer (o : XferOp) : State := withPage mover fun c => { c with xferQ := [o], l1 := inL1 0x1000 (shapeRecord (if o.comet then 0 else 4)) }

/-- The record is good where the packed side is aligned. -/
def verdictFits (o : XferOp) (v : ShapeVerdict) : Bool := match v with | .go => o.hd == 0 | .bad _ => o.hd == 2 | .done => false
/-- A copy, the same with its packed side misaligned, and a comet read. -/
theorem witness_CopiesAndCometReadsRun_accept : ∀ o ∈ [copyOp, { copyOp with hd := 2 }, cometOp],
    let l := shapeRecord (if o.comet then 0 else 4)
    let s := transfer o
    (s.m.core 0).xferNext = some o ∧ s.m.block 0 o.org.blk = some mover ∧ o.kn = none ∧ s.m.live 0 = true ∧ (s.m.core 0).accessesDone 0 o.org.after = true ∧
      s.m.suspended 0 (.xfer 0 7) = false ∧ (s.m.core 0).skeins = [] ∧ l.length = 64 ∧ o.sh.toNat % 64 = 0 ∧ s.hasCtx 0 (bareContext 0) ∧
      verdictFits o (shapeVerdict s.feat (recordField l) o.hd o.comet) = true ∧
      okAnd ((readShape s.feat (engineAgent 0 (if o.comet then cometCharge 0 org0 0 0 else s.m.copyCharge 0 org0 0)) 0 0 o.sh.toNat).go s.m)
        (fun d m1 => verdictFits o (shapeVerdict s.feat d o.hd o.comet) && (m1.ctx 0).isSome) = true := by
  simp only [State.hasCtx]; decide +kernel
theorem witness_CopiesAndCometReadsRun_record : (transfer copyOp).m.readsBy Fresh.features 0 0 0x1000 8 (shapeRecord 4) ∧
    (transfer cometOp).m.readsBy Fresh.features 0 0 0x1000 8 (shapeRecord 0) := ⟨reads_by_of (by decide +kernel), reads_by_of (by decide +kernel)⟩

/-- A tensor of sixteen elements at byte 64 of the window, whose packed side is the window's last 64 bytes. -/
def shape0 : Shape :=
  { base := 64, idx := 0, ex := 16, ey := 1, ez := 1, ox := 0, oy := 0, oz := 0, sy := 0, sz := 0, tx := 16, ty := 1, tz := 1, ifac := 0, hkind := true, tkind := true,
    dir := false, mode := 0, elog := 2 }
def copyRun : CopyRun := { org := org0, sh := shape0, hd := 4032, kn := none, inbound := false, chunks := 1, left := [0] }

theorem witness_CopiesAndCometReadsRun_chunk : ∀ r ∈ [copyRun, { copyRun with sh := { shape0 with dir := true } }],
    let s := withPage mover fun c => { c with copies := [r] }
    (((s.m.core 0).copies.find? fun x => x.org.id == 7) = some r ∧ s.m.block 0 r.org.blk = some mover ∧ r.left.contains 0 = true ∧ s.m.moving mover = true ∧
      s.m.suspended 0 (.chunk 0 7 0) = false ∧ s.m.failed 0 (s.m.copyCharge 0 org0 0) = false ∧ r.kn = none) ∧
      okAnd ((runChunk s.feat 0 mover r 0 (s.m.copyCharge 0 org0 0)).go s.m) (fun _ _ => true) = true ∧
      r.sh.mode = 0 ∧ r.sh.tkind = true ∧ r.sh.hkind = true ∧ (s.m.core 0).skeins = [] ∧ s.m.poisoned = [] ∧
      ∀ p ∈ r.sh.chunkElems 0, r.hd + p * r.sh.e + r.sh.e ≤ mover.winSize ∧
        ((r.sh.pos p).map fun x => decide (r.sh.tensorAt x.1 (r.sh.oy + x.2.1) x.2.2 + r.sh.e ≤ mover.winSize)) = some true := by decide +kernel

/-- A comet read of three bursts: the first landed, the second in flight, the third to request. -/
def cometRun : CometRun :=
  { org := org0, sh := { shape0 with base := 0x2000, hkind := false, tkind := false, ex := 48, tx := 48 }, hd := 0x100, args := [1, 2, 3, 4], cid := 0, pend := 7, kn := none, entry := 0, bursts := 3,
    toRequest := [2], inFlight := [1], landed := [(0, 8, List.replicate 64 1)], landings := 1, leaves := [], started := 0, ended := 0, replayed := [], ending := [] }
def cometState : State := withPage mover fun c => { c with comets := [cometRun], l1 := inL1 0x2040 (List.replicate 64 5) }

theorem witness_CopiesAndCometReadsRun_bursts :
    let at_ (x : Nat) : Nat := cometRun.sh.tensorAt (64 * x / cometRun.sh.e % cometRun.sh.tx) (cometRun.sh.oy + 64 * x / cometRun.sh.e / cometRun.sh.tx % cometRun.sh.ty)
      (64 * x / cometRun.sh.e / cometRun.sh.tx / cometRun.sh.ty)
    cometState.m.cometNext 0 = some cometRun ∧ ((cometState.m.core 0).comets.find? fun r => r.org.id == 7) = some cometRun ∧ cometRun.toRequest = 2 :: [] ∧
      (cometState.m.core 0).block 0 = some mover ∧ cometState.m.live 0 = true ∧ mover.bst = .running ∧ (cometState.m.core 0).landing < 1024 ∧ (cometState.m.core 0).requests < 1024 ∧
      cometRun.sh.mode = 0 ∧ at_ 2 = 0x2080 ∧ at_ 1 = 0x2040 ∧ cometRun.inFlight.contains 1 = true ∧ cometState.m.moving mover = true ∧
      cometState.m.suspended 0 (.burst 0 7 1) = false ∧ cometState.m.failed 0 (cometCharge 0 org0 0 1) = false ∧ (cometState.m.core 0).skeins = [] ∧ cometRun.sh.elog = 2 ∧
      (cometRun.leaves.find? fun e => e.1 == 1) = none ∧ (cometState.m.core 0).firstLanded 0 = some (cometRun, 0, List.replicate 64 1) ∧ mover.freeReserve = some 2046 := by decide +kernel
theorem witness_CopiesAndCometReadsRun_land : (∀ a ∈ [0x2080, 0x20BF], ∃ pg, cometState.m.mapped Fresh.features 0 0 a .read pg) ∧
    cometState.m.readsBy Fresh.features 0 0 0x2040 (min cometRun.sh.e 8) (List.replicate 64 5) ∧
    ∃ l m1, (burstRead cometState.feat 0 mover cometRun 1).go cometState.m = (.ok l, m1) ∧ (fun (l : List Byte) (_ : Dev) => decide (l = List.replicate 64 5)) l m1 = true := by
  refine ⟨?_, reads_by_of (by decide +kernel), ok_of (by decide +kernel)⟩
  have h : ∀ a ∈ [0x2080, 0x20BF], mappedB cometState.m Fresh.features 0 0 a .read (leaf0.pageOf 0 a) = true := by decide +kernel
  exact fun a ha => ⟨_, mapped_of (h a ha)⟩

/-- A launch of one block with a window of 128 bytes. -/
def launch0 : Launch :=
  { seq := 0, asid := 0, set := 0, dev := false, async := false, rec_ := { bareRecord with entry := 0x100, args := 0x200, stash := 128 }, prio := 0, nextBlock := 0, ended := 0, cores := [] }
def launching : State := { State.reset with m := { State.reset.m with ctxs := [(0, some (bareContext 0))], launches := [launch0] } }

theorem witness_BlocksArePlaced : 0 < launching.feat.coreCount ∧ (launching.m.core 0).blocks = [] ∧ (launching.m.core 0).skeins = [] ∧ (launching.m.core 0).courses = [] ∧
    launching.m.launchFor launching.feat 0 = some launch0 ∧ launching.m.ctx launch0.asid = some (bareContext 0) ∧ launch0.rec_.window ≤ 1048576 ∧ launch0.rec_.items = [] ∧
    launching.m.suspended 0 (.argument 0 launching.m.nextId) = false ∧
    recordsB launching.m launching.feat ((bareContext 0).stat + 0x100 + 8 * (launching.m.freeImage (bareContext 0)).getD 0) = true := by decide +kernel
/-- The highest label and mask. -/
theorem witness_BlocksArePlaced_starts : ∀ l ∈ [[], [LaunchItem.restart 0x01FFFFFFFFFFFFF8 0xFFFFFFFFFFFFFFFF]],
    let b := { bareBlock with started := false, todo := l }
    0 < (onBlock b).feat.coreCount ∧ (onBlock b).m.starting 0 = [b] ∧ (onBlock b).m.block 0 b.id = some b ∧ (0x01FFFFFFFFFFFFF8 : DWord).toNat % 8 = 0 ∧
      (0x01FFFFFFFFFFFFF8 : DWord).toNat < 2 ^ 57 := by decide +kernel

theorem witness_BlocksLeaveAndReturn_leave :
    let b := { standing with asked := true }
    (onBlock b).m.block 0 0 = some b ∧ (∀ p ∈ b.threads, p.2.tmo ≠ some 0) ∧ b.asked = true ∧ b.bst = .running ∧ b.over = false ∧ (onBlock b).m.live 0 = true ∧ ((onBlock b).m.core 0).inClause 0 = false ∧
      ((onBlock b).m.core 0).restarts b = false ∧ (onBlock b).m.inIteration 0 b = false ∧ ((onBlock b).m.core 0).comets = [] ∧ (onBlock b).m.ctx 0 = some (bareContext 0) ∧
      recordsB (onBlock b).m (onBlock b).feat ((bareContext 0).stat + 0x100 + 8 * b.image) = true := by decide +kernel
theorem witness_BlocksLeaveAndReturn_return :
    let b := { standing with bst := .preempted }
    (onBlock b).m.block 0 0 = some b ∧ b.imaged = false ∧ firstPending ((onBlock b).m.pendingOn (onBlock b).feat 0) = some (.away 0 b) ∧ ((onBlock b).m.die 0).placing = true ∧
      ((onBlock b).m.core 0).residents.length < 16 ∧ b.slotCount ≤ ((onBlock b).m.core 0).freeSlots ∧ (onBlock b).m.landing 0 b = false := by decide +kernel
theorem witness_BlocksLeaveAndReturn_bound :
    let b := { standing with bst := .preempted, skid := some 0 }
    let r : CometRun := { cometRun with landed := [] }
    let k : CopyRun := { copyRun with org := { org0 with id := 9 } }
    let s := onCore { Fresh.core with blocks := [b], comets := [r], copies := [k] } (bareContext 0)
    s.m.block 0 0 = some b ∧ b.skid = some 0 ∧ s.m.live 0 = true ∧ b.bst = .preempted ∧ r.org.blk = 0 ∧ r.toRequest = [2] ∧ r.inFlight = [1] ∧ s.m.suspended 0 (.burst 0 7 1) = false ∧
      ((s.m.core 0).copies.find? fun x => x.org.id == 9) = some k ∧ k.org.blk = 0 ∧ k.left = [0] := by decide +kernel
/-- A block with a tile; the same with a MMA queued; with a label, and without one. -/
theorem witness_BlocksLeaveAndReturn_restart : ∀ p ∈ [((0 : DWord), []), (0x100, []), (0x100, [mma0])],
    let b : Block := { standing with asked := true, tiles := [(0, some (.bound 3))], rstLabel := p.1, rstMask := 1 }
    let s := onCore { Fresh.core with blocks := [b], matQ := p.2, tileUse := [(3, some (0, 0))] } (bareContext 0)
    s.m.block 0 0 = some b ∧ b.asked = true ∧ b.bst = .running ∧ b.over = false ∧ s.m.live 0 = true ∧ (s.m.core 0).inClause 0 = false ∧ (s.m.core 0).restarts b = true ∧
      (s.m.core 0).matRun = none ∧ s.m.inIteration 0 b = false ∧ s.m.ctx 0 = some (bareContext 0) ∧ recordsB s.m s.feat ((bareContext 0).stat + 0x100 + 8 * b.image) = true ∧
      mget none b.tiles 0 = some (.bound 3) ∧ mget none (s.m.core 0).tileUse 3 = some (0, 0) ∧ b.ordinary = [0] ∧ b.rstMask.getLsbD 0 = true := by decide +kernel
theorem witness_BlocksLeaveAndReturn_end :
    let b := { bareBlock with bst := .exited, threads := [(0, { Fresh.thread with st := .exited })] }
    (onBlock b).m.block 0 0 = some b ∧ b.bst = .exited ∧ (onBlock b).m.live 0 = true ∧ ((onBlock b).m.core 0).drained b = true ∧ ((onBlock b).m.core 0).skeins = [] := by decide +kernel

/-! ### The walker -/

/-- Page tables of context 0: one gigabyte from address 0 stands for local memory from 0 on. -/
def tables : List Host.Cell :=
  [(0, 0x01), (1, 0x20), (0x2000, 0x01), (0x2001, 0x40), (0x4000, 0x01), (0x4001, 0x60), (0x6000, 0x39), (0x6001, 0x01), (0x6008, 0x80)]
/-- A machine with one context, those tables and other memory above them. -/
def walkState (x : Context) (mem : List Host.Cell) : State := { State.reset with m := { State.reset.m with ctxs := [(0, some x)], mem := tables ++ mem } }
/-- A node of a kind, and a context whose main chain stands at it, started or not. -/
def node (k : NodeKind) (opa opb param : Nat) : Node :=
  { addr := 0x20000, kind := k, cons := true, async := false, next := 0x20080, opa := opa, opb := opb, param := param, wait := 1, set := 2 }
def atNode (n : Node) (on : Bool) : Context := { bareContext 0 with main := { Fresh.chain with cur := some 0x20000, node := some n, started := on }, events := 1 }

/-- An EVENT node and one of no kind, whose head is taken, and where the chain stands already. -/
theorem witness_WalkerRuns_read : ∀ x ∈ [(0x30 : Byte), 0xF0],
    let c : Context := { bareContext 0 with heads := [0x20000] }
    let s := walkState c [(0x20007, x)]
    s.m.ctx 0 = some c ∧ s.m.walks 0 = true ∧ (match s.m.takeNext 0 false c with
      | some m0 => decide (((m0.ctx 0).map fun y => ((y.chain false).cur, (y.chain false).node)) = some (some 0x20000, none)) &&
          okAnd ((walkerReads s.feat 0 0x20000 0x20000 16).go m0) fun d m1 => (nodeOf 0x20000 d false).isOk == decide (x = 0x30) && (m1.ctx 0).isSome
      | none => false) = true := by decide +kernel
theorem witness_WalkerRuns_seen : ∀ x ∈ [(0x30 : Byte), 0xF0],
    let c : Context := { bareContext 0 with main := chainAt 0x20000 }
    let s := walkState c [(0x20007, x)]
    let d := x.toNat * 2 ^ 56 :: List.replicate 15 0
    (s.hasCtx 0 c ∧ s.m.walks 0 = true ∧ (c.chain false).cur = some 0x20000 ∧ (c.chain false).node = none ∧ d.length = 16 ∧ (nodeOf 0x20000 d false).isOk = decide (x = 0x30)) ∧
      ∀ i, i < 16 → s.m.walkerSees s.feat 0 (0x20000 + 8 * i) (d.getD i 0) := by
  simp only [List.forall_mem_cons]
  refine ⟨⟨?_, walker_reads_of (by decide +kernel)⟩, ⟨?_, walker_reads_of (by decide +kernel)⟩, by simp⟩ <;> (simp only [State.hasCtx]; decide +kernel)
theorem witness_WalkerRuns_plain :
    (∀ k ∈ [NodeKind.event, .host, .end_], (walkState (atNode (node k 0 0 0) true) []).m.startable 0 false k = some (node k 0 0 0)) ∧ (node .event 0 0 0).next ≠ 0 ∧
      (atNode (node .event 0 0 0) true).still := by simp only [Context.still]; decide +kernel
theorem witness_WalkerRuns_ready :
    let c := atNode (node .event 0 0 0) false
    (c.chain false).node = some (node .event 0 0 0) ∧ (c.chain false).started = false ∧ (node .event 0 0 0).wait &&& ~~~c.events = 0 ∧ ∀ b, b ≠ false → (c.chain b).node = none := by decide +kernel
/-- A condition of 1 below NS 2, whose entry is 0x100, and one of 2 that is not. -/
theorem witness_WalkerRuns_cond : ∀ v ∈ [(1 : Byte), 2],
    let n := node .cond 0x30000 0x31000 2
    let s := walkState (atNode n true) [(0x30000, v), (0x31009, 1)]
    (s.m.startable 0 false .cond = some n ∧ (v = 1 → v.toNat < n.param % 16) ∧ (v = 2 → n.param % 16 ≤ v.toNat)) ∧ s.m.walkerSees s.feat 0 n.opa v.toNat ∧
      s.m.walkerSees s.feat 0 (n.opb + 8) 0x100 := by
  simp only [List.forall_mem_cons]
  exact ⟨⟨by decide +kernel, walker_sees_of (by decide +kernel), walker_sees_of (by decide +kernel)⟩,
    ⟨by decide +kernel, walker_sees_of (by decide +kernel), walker_sees_of (by decide +kernel)⟩, by simp⟩
/-- A loop's count of 1, and of 0. -/
theorem witness_WalkerRuns_while : ∀ v ∈ [(1 : Byte), 0],
    let n := node .while_ 0x30000 0x20100 0
    let s := walkState (atNode n true) (if v = 0 then [] else [(0x30000, v)])
    (s.m.startable 0 false .while_ = some n ∧ s.m.watching = false) ∧ s.m.walkerSees s.feat 0 n.opa v.toNat ∧ s.m.walkerAt s.feat 0 n.opa .both (walkPage 0 0x30000) := by
  simp only [List.forall_mem_cons]
  exact ⟨⟨by decide +kernel, walker_sees_of (by decide +kernel), walker_at_of (by decide +kernel)⟩,
    ⟨by decide +kernel, walker_sees_of (by decide +kernel), walker_at_of (by decide +kernel)⟩, by simp⟩
/-- The reads and the change of those clauses go through. -/
theorem witness_WalkerRuns_selects :
    let n := node .cond 0x30000 0x31000 2
    let w := node .while_ 0x30000 0x20100 0
    let s := walkState (atNode n true) [(0x30000, 1), (0x31009, 1)]
    okAnd ((walkerRead s.feat 0 n.addr n.opa).go s.m) (fun v m1 => decide (v = 1) && okAnd ((walkerRead s.feat 0 n.addr (n.opb + 8 * v)).go m1) fun e _ => decide (e = 0x100)) = true ∧
      okAnd ((walkerPage s.feat 0 w.opa .both).go s.m) (fun pg m2 =>
        okAnd ((homeAccess s.feat (walkerAgent 0 (walkerCharge w.addr)) pg (BitVec.ofNat 64 w.opa) 8 (.rmw fun o => if o = 0 then none else some (o - 1))).go m2) fun _ _ => true) = true := by
  decide +kernel

/-- The least launch record, at 0x30000: an entry address, a grid of 1 by 1 by 1, one thread; and the same with an empty grid. -/
def launchRecord (gx : Nat) : List Nat := [0x100, 0, 0, 2 ^ 32 + gx, 1, 0, 0, 0, 2 ^ 32] ++ List.replicate 23 0
theorem witness_LaunchesBeginAndFinish_start : ∀ g ∈ [(1 : Byte), 0],
    let n := node .kernel 0x30000 0 0
    let s := walkState (atNode n true) ([(0x30001, 1)] ++ (if g = 0 then [] else [(0x30018, g)]) ++ [(0x3001C, 1), (0x30020, 1), (0x30044, 1)])
    let d := launchRecord g.toNat
    (s.m.startable 0 false .kernel = some n ∧ s.hasCtx 0 (atNode n true) ∧ d.length = 32 ∧
      ((recordBad (fun i => d.getD i 0) (recordOf (fun i => d.getD i 0) n.opa)).isNone = decide (g = 1)) ∧ bitsOf (d.getD 2 0) 0 57 = 0) ∧
      ∀ i, i < 32 → s.m.walkerSees s.feat 0 (n.opa + 8 * i) (d.getD i 0) := by
  simp only [List.forall_mem_cons]
  refine ⟨⟨?_, walker_reads_of (by decide +kernel)⟩, ⟨?_, walker_reads_of (by decide +kernel)⟩, by simp⟩ <;> (simp only [State.hasCtx]; decide +kernel)
theorem witness_LaunchesBeginAndFinish_read :
    let n := node .kernel 0x30000 0 0
    let s := walkState (atNode n true) [(0x30001, 1), (0x30018, 1), (0x3001C, 1), (0x30020, 1), (0x30044, 1)]
    okAnd ((readRecord s.feat 0 n).go s.m) (fun r m1 => r.nthr == 1 && (m1.ctx 0).isSome) = true := by decide +kernel
theorem witness_LaunchesBeginAndFinish_finish :
    let l := { launch0 with nextBlock := 1, ended := 1 }
    let c := atNode (node .kernel 0 0 0) true
    let s : State := { State.reset with m := { State.reset.m with ctxs := [(0, some c)], launches := [l] } }
    (s.m.launches.find? fun x => x.seq == 0 && x.asid == 0) = some l ∧ (∀ i ∈ l.cores, (s.m.core i).writingBack 0 = false) ∧ l.rec_.blocks ≤ l.ended ∧ s.m.live 0 = true ∧ s.hasCtx 0 c ∧ c.still ∧ l.async = false ∧
      l.dev = false ∧ c.main.node = some (node .kernel 0 0 0) ∧ (node .kernel 0 0 0).next ≠ 0 := by
  simp only [State.hasCtx, Context.still]; decide +kernel
theorem witness_LaunchesBeginAndFinish_mirror :
    let x : Context := { bareContext 0 with events := 1 }
    let s : State := { State.reset with m := { State.reset.m with ctxs := [(0, some x)] } }
    s.hasCtx 0 x ∧ x.events ≠ x.mirror ∧ (∀ i, i < 32 → s.m.isLocal (x.stat + i) = true) ∧ s.m.l2 = [] ∧ recordsB s.m s.feat x.stat = true := by
  simp only [State.hasCtx]; decide +kernel

/-! ### The memory system -/

/-- A state with accesses outstanding on a translated page, which their leaf names. -/
def accState (l : List Access) : State := withPage standing fun c => { c with accs := l }
/-- A store at its home; a load of 16 bytes there. -/
def atHome : Access := { store0 with leaf := some page0 }
def wideLoad : Access := { atHome with kind := .load, n := 16, ty := 11 }

/-- The last two have performed their first half. -/
theorem witness_RequestsAreServed : ∀ a ∈ [atHome, { atHome with kind := .load }, { atHome with kind := .cas }, { atHome with phase := .refused 0 }, wideLoad,
      { wideLoad with kind := .store }, { wideLoad with half := some 1 }, { wideLoad with kind := .store, half := some 0 }],
    let s := accState [a]
    (s.m.core 0).access a.id = some a ∧ s.m.suspended 0 (.access 0 a.id) = false ∧ a.leaf = some page0 ∧ (a.phase = .home ∨ a.phase = .refused 0) ∧
      restB s.m (page0.leaf.pageOf 0 a.part.va.toNat).loc a.part.n = true ∧ (page0.leaf.pageOf 0 a.part.va.toNat).cc = 2 ∧ (page0.leaf.pageOf 0 a.part.va.toNat).comp = none ∧
      (page0.leaf.pageOf 0 a.part.va.toNat).key = 0 ∧ (a.part.n = a.n ∨ a.half.isSome = true ∨ a.half = none) ∧ (s.m.thread 0 a.blk a.slot).isSome = true := by decide +kernel
/-- The grain is busy: the home refuses a store. -/
theorem witness_RequestsAreServed_refused :
    let s := (accState [atHome]).withDev { (accState [atHome]).m with home := { State.reset.m.home with busy := [0x1000] } }
    (s.m.core 0).access 7 = some atHome ∧ s.m.suspended 0 (.access 0 7) = false ∧ s.m.refuses (atHome.requester 0) (page0.leaf.pageOf 0 0x1000) = true ∧
      s.m.changesGrain (page0.leaf.pageOf 0 0x1000) (atHome.kind != .load || ((page0.leaf.pageOf 0 0x1000).cached && atHome.hint != 3)) = true := by decide +kernel

/-- An access that waits for a walk of the tables, of an empty root, of a table whose page is not present. -/
def walking (mem : List Host.Cell) : State :=
  (onCore { Fresh.core with blocks := [standing], accs := [{ store0 with phase := .walk }] } (bareContext 0)).withDev
    { (onCore { Fresh.core with blocks := [standing], accs := [{ store0 with phase := .walk }] } (bareContext 0)).m with mem := mem }
theorem witness_WalksAndSegments_walk :
    ((walking tables).m.core 0).access 7 = some { store0 with phase := .walk } ∧ (walking tables).m.suspended 0 (.access 0 7) = false ∧
      (walking tables).m.walkTurn Fresh.features 0 { store0 with phase := .walk } = true ∧
      (match (walking tables).m.walk Fresh.features 0 0x1000 with
        | .ok l => match (walking tables).m.checkLeaf Fresh.features l 0 0x1000 store0.need with | .ok _ => true | .error _ => false
        | .error _ => false) = true ∧
      (match (walking []).m.walk Fresh.features 0 0x1000 with | .ok _ => 0 | .error c => c) = 0x10 ∧
      (match (walking (tables.take 6)).m.walk Fresh.features 0 0x1000 with | .ok _ => 0 | .error c => c) = 1 ∧ (walking []).hasCtx 0 (bareContext 0) ∧ (walking tables).m.alone ∧
      ∀ p ∈ [((0xB9 : Byte), 2), (0x29, 0x10)], (match (walking (tables.take 6 ++ [(0x6000, p.1)] ++ tables.drop 7)).m.walk Fresh.features 0 0x1000 with
        | .ok l => match (walking tables).m.checkLeaf Fresh.features l 0 0x1000 store0.need with | .ok _ => 0 | .error c => c
        | .error _ => 1) = p.2 := by
  simp only [State.hasCtx, Dev.alone]; decide +kernel

/-- A skein of one word, its segment in a state; the word, in local memory and behind port 0, which is down. -/
def skein0 (g : Seg) : Skein :=
  { asid := 0, blk := some 0, base := 0x2000, stride := 4, foff := 0, len := 1, count := 1, soff := 0, mode := 1, aff := 0, win := 0, segs := [(0, g)], leaving := false }
def word0 : SkWord := { at_ := 0, pa := 0x2000, cc := 2, key := 0, owner := true, sharer := false, dirty := false, written := false, comp := none, cg := 0, heat := none }
def wordFar : SkWord := { word0 with pa := 2 ^ 52, cc := 3 }
def segState (g : Seg) : State := onCore { Fresh.core with blocks := [windowed (running [])], skeins := [(0, some (skein0 g))] } (bareContext 0)

theorem witness_WalksAndSegments_fill : ∀ w ∈ [word0, wordFar],
    let g : Seg := { st := .filling, words := [w], wb := none }
    mget none ((segState g).m.core 0).skeins 0 = some (skein0 g) ∧ ((segState g).m.core 0).accs = [] ∧ (segState g).m.home.outside = [] ∧ ((segState g).m.seg 0 0 0).st = .filling ∧
      g.words = [w] ∧ w.comp = none ∧ (segState g).m.fillSpoilt 0 w = decide (w = wordFar) := by decide +kernel
theorem witness_WalksAndSegments_poison : (fun g => ((segState g).withDev { (segState g).m with poisoned := [0x2000] }).m.fillSpoilt 0 word0) { st := .filling, words := [word0], wb := none } = true := by
  decide +kernel
theorem witness_WalksAndSegments_back :
    let g : Seg := { st := .retiring, words := [], wb := some (3, [(word0, [1, 2, 3, 4])]) }
    mget none ((segState g).m.core 0).skeins 0 = some (skein0 g) ∧ ((segState g).m.core 0).accs = [] ∧ (segState g).m.home.outside = [] ∧
      ((segState g).m.seg 0 0 0).wb = some (3, [(word0, [1, 2, 3, 4])]) ∧ (skein0 g).leaving = false ∧ word0.comp = none ∧ word0.key = 0 ∧
      (∀ i, i < [(1 : Byte), 2, 3, 4].length → (segState g).m.isLocal (word0.pa + i) = true) ∧ (segState g).m.l2 = [] := by decide +kernel

/-- A fence; beside it a store of another thread that is performed at core scope. -/
def fence0 : Access := { store0 with kind := .fence, phase := .new, n := 0, wideDone := false }
theorem witness_OtherAccessesComplete_fence :
    let s := accState [fence0]
    (s.m.core 0).access 7 = some fence0 ∧ (s.m.core 0).earlier fence0 = [] ∧ s.m.suspended 0 (.access 0 7) = false ∧ s.m.acqOf 0 fence0 = [] ∧ (s.m.core 0).flushing 0 = false ∧
      fence0.stash = false ∧ (s.m.core 0).workDone 0 0 7 = true ∧ ∀ x ∈ (s.m.core 0).accs, x.early = none := by decide +kernel
theorem witness_OtherAccessesComplete_waits :
    let s := accState [{ store0 with id := 6, slot := 1, early := some 0 }, fence0]
    let u := s.withDev { s.m with nextId := 8 }
    (u.m.core 0).access 7 = some fence0 ∧ fence0.phase = .new ∧ fence0.wideDone = false ∧ (u.m.core 0).earlier fence0 = [] ∧
      (u.m.core 0).accessesDone 0 (u.m.acqOf 0 fence0) = true ∧ (u.m.core 0).wideReady fence0 (u.m.acqOf 0 fence0) (fence0.wide.getD u.m.nextId) = false := by decide +kernel
theorem witness_OtherAccessesComplete_publish :
    let a : Access := { atHome with kind := .load, phase := .publish }
    let s := accState [a]
    let m1 := (s.m.publishers 0 0x1000 4).foldl (fun x p => x.publish s.feat p.1 p.2) s.m
    (s.m.core 0).access 7 = some a ∧ a.leaf = some page0 ∧ (page0.leaf.pageOf 0 a.part.va.toNat).loc = 0x1000 ∧ m1.publishers 0 0x1000 4 = [] ∧
      (State.reset.m.core 0).access 7 = none := by decide +kernel

/-- A host's and a pod device's request of four bytes, with both features accepted; for the host's atomics without CXLC. -/
def outside : State := managed { Fresh.mgmt with port0 := .up }
theorem witness_OtherAccessesComplete_outside : ∀ o ∈ [AgentOp.load, .store [1, 2, 3, 4], .fetchAdd 1, .swap 1, .cas 0 1, .min true 1, .addF32 1],
    let r : AgentRequest := { port := 0, op := o, pa := 0x1000, size := 4 }
    outside.answers ∧ restB outside.m r.pa r.size = true ∧ outside.m.backed outside.feat r.pa = true ∧ outside.feat.has 5 = true ∧ outside.m.podHeld = [] ∧
      outside.feat.hostOp r.op = decide (o ≠ .min true 1 ∧ o ≠ .addF32 1) ∧ (match r.op with | .store l => l.length | _ => 0) ≤ r.size ∧ (if r.port = 0 then outside.m.mgmt.port0 else outside.m.mgmt.port1) = .up := by
  simp only [State.answers]; decide +kernel
/-- A snoop that the host owes an answer; a route to pod device 4,095. -/
theorem witness_OtherAccessesComplete_snoop :
    let s := outside.withDev { outside.m with snoops := [8] }
    let u := managed { Fresh.mgmt with routes := [(4095, some 15)], links := [(15, { st := .up, peer := 1 })] }
    (s.answers ∧ s.m.snoops.contains 8 = true ∧ s.m.home.outside = []) ∧ u.answers ∧ u.feat.has 5 = true ∧ isDevLoc (4095 * 2 ^ 40) = true ∧ u.m.isLocal (4095 * 2 ^ 40) = false ∧
      u.m.forwardLink u.feat (4095 * 2 ^ 40) = some 15 ∧ outside.m.isLocal (4095 * 2 ^ 40) = false ∧ outside.m.forwardLink outside.feat (4095 * 2 ^ 40) = none := by simp only [State.answers]; decide +kernel

/-- A page of host memory behind port 0, of class 3, and an access there that has become an AtomicOp. -/
def hostPage : TlbEntry := { page0 with d0 := 0x539, d1 := 0xC0 }
def atomicState (a : Access) : State :=
  { feat := { Fresh.features with acc := 0x3F, lock := true }
    m := { (onCore { Fresh.core with blocks := [standing], tlb := [hostPage], accs := [a] } (bareContext 0)).m with mgmt := { Fresh.mgmt with port0 := .up } } }
/-- An add; a minimum that has still to read, and one that has read what is there. -/
theorem witness_OtherAccessesComplete_atomic : ∀ p ∈ [(AccKind.add, none), (.min, none), (.min, some 0)],
    let a : Access := { atHome with kind := p.1, phase := .atomicOp p.2, leaf := some hostPage }
    let s := atomicState a
    let pg := hostPage.leaf.pageOf 0 0x1000
    (s.m.core 0).access 7 = some a ∧ a.leaf = some hostPage ∧ a.kind.atomic = true ∧ pg.key = 0 ∧ (s.m.core 0).l1 = [] ∧ s.m.l2 = [] ∧ s.m.linkUp s.feat pg.loc = true ∧
      isDevLoc pg.loc = false ∧ portOf pg.loc = portOf (pg.loc + 4) ∧ s.hasCtx 0 (bareContext 0) ∧ a.stash = false ∧ ofBytes (Memory.read s.m.mem pg.loc 4) = 0 := by
  simp only [State.hasCtx]; decide +kernel

/-! ### Halts -/

theorem witness_HaltsComplete :
    let h : Halt := { primary := noFault, faults := [noFault], settled := true, skidded := false, done := false }
    let x : Context := { bareContext 0 with halt := some h }
    let s := onCore { Fresh.core with blocks := [standing] } x
    let y : Context := { bareContext 0 with halt := some { h with skidded := true } }
    (s.hasCtx 0 x ∧ h.skidded = false ∧ s.m.inSimtSkid 0 = false ∧ s.m.inCometSkid 0 = false ∧ s.m.inCopySkid 0 = false ∧ s.m.inSweepSkid 0 = false ∧ s.m.recordsWait [(x.stat + 0x8100, 0x80), (x.stat + 0x10000, 512 * s.feat.coreCount)] = false ∧
      s.m.recordsWait ((s.m.blocksOf 0).flatMap fun p => s.m.imageRun p.2) = false ∧ s.m.watching = false ∧ s.m.l2 = [] ∧ h.faults.contains h.primary = true) ∧
      (onCore { Fresh.core with blocks := [standing] } y).hasCtx 0 y ∧ { h with skidded := true }.skidded = true ∧ h.done = false ∧ y.st ≠ .destroying := by
  simp only [State.hasCtx]; decide +kernel
/-- Every byte of a record area, or of an image, is local and can be reached. -/
def reachableB (m : Dev) (ft : Features) (pa : Nat) : Bool := m.isLocal pa && decide (m.recordCause ft pa = none)
theorem reachable_of {m : Dev} {ft : Features} {pa n : Nat} (h : ∀ i, i < n → reachableB m ft (pa + i) = true) : ∀ i, i < n → m.isLocal (pa + i) = true ∧ m.recordCause ft (pa + i) = none :=
  fun i hi => by simpa [reachableB] using h i hi
theorem witness_HaltsComplete_records (x : Context) (hx : x.stat = 0 ∧ x.pool = 0) :
    let s := onCore { Fresh.core with blocks := [standing] } x
    s.m.bare ∧ (∀ i, i < 0x30000 → s.m.isLocal (x.stat + i) = true ∧ s.m.recordCause s.feat (x.stat + i) = none) ∧ s.m.blocksOf 0 = [(0, standing)] ∧ standing.imaged = false ∧
      s.m.recordCause s.feat (x.imageAt standing.image) = none ∧ ∀ i, i < 0x1B0000 → s.m.isLocal (x.imageAt standing.image + i) = true := by
  have h : ∀ i, i < 0x1B0000 → (onCore { Fresh.core with blocks := [standing] } x).m.isLocal i = true ∧ (onCore { Fresh.core with blocks := [standing] } x).m.recordCause
      (onCore { Fresh.core with blocks := [standing] } x).feat i = none := by
    intro i hi
    have h1 : (onCore { Fresh.core with blocks := [standing] } x).m.isLocal i = true := by
      have : podOf i = 0 := by unfold podOf; omega
      simp only [Dev.isLocal, isDevLoc, this, onCore, State.reset, Fresh.machine, Fresh.mgmt, Bool.and_eq_true, decide_eq_true_eq, beq_self_eq_true, and_true]; omega
    have h2 : (onCore { Fresh.core with blocks := [standing] } x).m.backed (onCore { Fresh.core with blocks := [standing] } x).feat i = true := by
      have h3 : 0x1B0000 < 4 * Fresh.features.dieSpan := by decide
      have h4 : i % 2 ^ 40 < 4 * Fresh.features.dieSpan := by omega
      simp only [Dev.backed, Bool.or_eq_true, decide_eq_true_eq]; exact .inr h4
    exact ⟨h1, by simp only [Dev.recordCause, h1, h2, if_true]⟩
  have hi : x.imageAt standing.image = 0 := by simp [Context.imageAt, hx.2, standing, blockOf, bareBlock]
  refine ⟨?_, ?_, rfl, rfl, ?_, ?_⟩
  · intro p hp; simp only [onCore, List.mem_singleton] at hp; subst hp; exact ⟨rfl, rfl⟩
  · intro i h2; rw [hx.1, Nat.zero_add]; exact h i (by omega)
  · rw [hi]; exact (h 0 (by omega)).2
  · intro i h2; rw [hi, Nat.zero_add]; exact (h i h2).1
theorem witness_HaltsComplete_idle (x : Context) : ∀ k, ((onCore { Fresh.core with blocks := [standing] } x).m.core k).matRun = none := by
  intro k
  simp only [onCore, Dev.core, mget]
  split <;> rfl

/-! ### The machine -/

/-- ADD g5, g6, g7 .sat.i32 as the clause that runs first (spec: `add.sat.i32 g5, g6, g7` is 0x0171_461C_0601_0000). -/
def addFirst : State := State.reset.withFetchWord 128 (0x0171461C06010000 * 2 ^ 64 + 0x00FF000000000000)

theorem witness_StepRunsTheDecodedInstruction : addFirst.m.moves = [] ∧ addFirst.m.firstIssue = some (0, 0) ∧ addFirst.m.mayIssue 0 0 = true ∧
    (addFirst.m.issueAt 0 0).map (fun p => p.2) = some (.add always { d := 5, a := 6, b := 7, c := 0, ty := 6, md := 1, imm := 0 }) ∧
    State.reset.m.moves = [] ∧ State.reset.m.firstIssue = none := by decide +kernel
theorem witness_DecodeInvertsEncode : (Instr.add always rrr).wf = true ∧ (encode (.add always rrr)).isSome = true := by decide +kernel
theorem witness_EncodeInvertsDecode : decodeWord 0 0x0171461C06010000 = .ok (.add always { d := 5, a := 6, b := 7, c := 0, ty := 6, md := 1, imm := 0 }) := by rfl
theorem witness_FeaturesAreKept : (∃ t, step addFirst = .next t) ∧ featuresOk addFirst ∧ (locked [] 0).feat.lock = true ∧ ∃ t, step (locked [] 0) = .next t := by
  refine ⟨⟨_, rfl⟩, by unfold featuresOk; decide, rfl, ⟨_, rfl⟩⟩
theorem witness_EveryStepGoesOn : ∀ i r, addFirst.m.moves = .event i :: r → (encode i).isSome → addFirst.member.isSome := by
  intro i r h; cases h

/-! ### Ill-formed words: one that each check refuses -/

def mem0 : MEM := { d := 0, base := 0, data := 0, ty := 2, order := 0, scope := 0, hint := 0, offset := 0 }
def mx0 : MX := { acc := 0, aq := 0, bq := 0, k := 0, aslot := 0, bslot := 0, stitch := 0, sb := 0, zf := 0, meta' := 0 }
def pl0 : PL := { map := 0, d := 0, a := 0, b := 0, c := 0, stitch := 0, sb := 0, ty := 10 }
def tx0 : TX := { shape := 0, hd := 0, tok := 0, arg := 0, kn := 0, mode := 0 }
def sy0 : SY := { d := 0, a := 0, b := 0, sel := 0, md := 0, imm := 0 }
def ri0 : RI := { d := 0, a := 0, ty := 2, md := 0, imm := 0 }

/-- A field that must be zero, a type outside the set, an odd pair, both operands, a modifier that the word lacks (R73, R80, R104 to R107, R337). -/
theorem ill_formed_integer : ∀ i ∈ [Instr.nop always rrr, .add always { rrr with ty := 0 }, .add always { rrr with ty := 3, d := 1 }, .sub always { rrr with md := 0x80, b := 1 },
    .mul always { rrr with imm := 1 }, .mulh always { rrr with md := 1 }, .mad always { rrr with md := 2 }, .abs always rrr, .not always { rrr with b := 1 }, .bfx always { rrr with md := 2 },
    .bfi always { rrr with md := 1 }, .cmp always { rrr with d := 8 }, .cmp always { rrr with md := 6 }, .sel always { rrr with c := 8 }, .mov always { rrr with ty := 11, a := 2 },
    .lea always { rrr with ty := 3, md := 5 }, .movi always { ri0 with ty := 8, imm := 65536 }, .popc always { rrr with c := 1 }], i.wf = false := by decide +kernel
theorem ill_formed_float : ∀ i ∈ [Instr.fadd always rrr, .ffma always { rrr with ty := 10, md := 8 }, .frcp always { rrr with ty := 10, b := 1 }, .fmin always { rrr with ty := 10, md := 1 },
    .fcmp always { rrr with ty := 10, d := 8 }, .fclass always { rrr with ty := 10, b := 1 }, .cvt always { rrr with md := 0x80 }, .cvtPk always { rrr with md := 8, ty := 0 },
    .cvtUp always { rrr with ty := 0 }], i.wf = false := by decide +kernel
theorem ill_formed_memory : ∀ i ∈ [Instr.ld always { mem0 with base := 1 }, .ld always { mem0 with order := 2 }, .st always { mem0 with order := 1 }, .lds always { mem0 with ty := 3, d := 1 },
    .sts always { mem0 with hint := 4 }, .cas always { mem0 with data := 1 }, .cas128 always { mem0 with ty := 11, data := 4 }, .fence always { mem0 with ty := 0 },
    .atomInc always { mem0 with ty := 6 }, .atomAdd always { mem0 with ty := 8 }, .waitm always { mem0 with ty := 6 }, .pref always { mem0 with ty := 4 }], i.wf = false := by decide +kernel
theorem ill_formed_control : ∀ i ∈ [Instr.bra always { d := 1, offset := 0 }, .brx always { d := 1, offset := 0 }, .ret always { d := 0, offset := 1 }, .trap always ri0,
    .step always { ri0 with ty := 0, md := 1 }, .sign always rrr, .signMask always { rrr with ty := 0, md := 0x10, a := 1 }, .sign always { rrr with ty := 0, b := 1 },
    .pfx { always with guard := 0 } { ri0 with ty := 0 }], i.wf = false := by decide +kernel
theorem ill_formed_units : ∀ i ∈ [Instr.vmax always { sw with sat := 1 }, .vcopy always sw, .vspc always .i8 { sw with sd := 1 }, .mma always { mx0 with acc := 96 }, .mma always { mx0 with stitch := 1 },
    .mmas always { mx0 with meta' := 1 }, .accalloc always { rrr with ty := 0 }, .accfree always { rrr with ty := 0, md := 96 }, .accrd always 0 { rrr with ty := 0, md := 96 },
    .rstl always { rrr with ty := 0, a := 1 }, .copy always { tx0 with kn := 1 }, .comet always { tx0 with arg := 61 }, .seal always { tx0 with mode := 1 }, .prefList always { tx0 with mode := 3 },
    .plymatch always { pl0 with ty := 2 }, .plymerge always { pl0 with sb := 1 }, .plysplit always { pl0 with c := 1 }, .plykeep always pl0], i.wf = false := by decide +kernel
theorem ill_formed_system : ∀ i ∈ [Instr.mvs always { sy0 with sel := 17 }, .mvs always { sy0 with sel := 7, d := 1 }, .evset always { sy0 with sel := 256 }, .launch always { sy0 with a := 1 },
    .kninit always { sy0 with d := 1 }, .knarr always sy0, .knwait always { sy0 with b := 1 }, .skmap always { sy0 with sel := 64 }, .skunmap always { sy0 with d := 1 },
    .skflushAll always sy0, .skquery always { sy0 with d := 1 }], i.wf = false := by decide +kernel

/-! ### Words of the spec, decoded -/

/-- Class 0, from the entries of XOR, MAD, MOV, LEA, CVT, POPC, SAR, SHL, SUB (docs of R385 to R432). -/
theorem decode_integer :
    decodeWord 0 0x0C71461C02000000 = .ok (.xor always { d := 5, a := 6, b := 7, c := 0, ty := 2, md := 0, imm := 0 }) ∧
    decodeWord 0 0x177108000B000000 = .ok (.mov always { d := 4, a := 8, b := 0, c := 0, ty := 11, md := 0, imm := 0 }) ∧
    decodeWord 0 0x1872001003020000 = .ok (.lea always { d := 8, a := 0, b := 4, c := 0, ty := 3, md := 2, imm := 0 }) ∧
    decodeWord 0 0x1371460002000000 = .ok (.popc always { d := 5, a := 6, b := 0, c := 0, ty := 2, md := 0, imm := 0 }) ∧
    decodeWord 0 0x107106000780003F = .ok (.sar always { d := 4, a := 6, b := 0, c := 0, ty := 7, md := 0x80, imm := 63 }) ∧
    decodeWord 0 0x0272080003800040 = .ok (.sub always { d := 8, a := 8, b := 0, c := 0, ty := 3, md := 0x80, imm := 64 }) := by
  refine ⟨rfl, rfl, rfl, rfl, rfl, rfl⟩
theorem decode_conversion :
    decodeWord 0 0x2D71460000030000 = .ok (.cvtPk always { d := 5, a := 6, b := 0, c := 0, ty := 0, md := 3, imm := 0 }) ∧
    decodeWord 0 0x2C71460C06510000 = .ok (.cvt always { d := 5, a := 6, b := 3, c := 0, ty := 6, md := 0x51, imm := 0 }) := ⟨rfl, rfl⟩
theorem decode_memory :
    decodeWord 0 0x3872822C02E00008 = .ok (.atomAdd always { d := 10, base := 2, data := 11, ty := 2, order := 3, scope := 2, hint := 0, offset := 8 }) ∧
    decodeWord 0 0x3272470002400000 = .ok (.lds always { d := 9, base := 7, data := 0, ty := 2, order := 1, scope := 0, hint := 0, offset := 0 }) ∧
    decodeWord 0 0x3170082C02800000 = .ok (.st always { d := 0, base := 8, data := 11, ty := 2, order := 2, scope := 0, hint := 0, offset := 0 }) ∧
    decodeWord 0 0x4A70021802600000 = .ok (.waitm always { d := 0, base := 2, data := 6, ty := 2, order := 1, scope := 2, hint := 0, offset := 0 }) := ⟨rfl, rfl, rfl, rfl⟩
theorem decode_control :
    decodeWord 0 0x4171800000000000 = .ok (.brx always { d := 6, offset := 0 }) ∧ decodeWord 0 0x4870000000000005 = .ok (.step always { d := 0, a := 0, ty := 0, md := 0, imm := 5 }) ∧
    decodeWord 0 0x4670000000000001 = .ok (.trap always { d := 0, a := 0, ty := 0, md := 0, imm := 1 }) ∧ decodeWord 0 0x4470000000000000 = .ok (.exit always { d := 0, offset := 0 }) ∧
    decodeWord 0 0x4570000000000000 = .ok (.yield always { rrr with ty := 0 }) := ⟨rfl, rfl, rfl, rfl, rfl⟩
theorem decode_sweep_and_matrix :
    decodeWord 1 0x1A70041050000100 = .ok (.vcvtPk always 2 { n := 4, d := 4, a := 5, b := 0, sd := 0, sa := 1, sb := 0, sat := 0 }) ∧
    decodeWord 2 0x1077800000040000 = .ok (.accalloc always { rrr with d := 30, ty := 0, md := 4 }) ∧
    decodeWord 2 0x1A70060000030000 = .ok (.accrd always 2 { rrr with a := 6, ty := 0, md := 3 }) := ⟨rfl, rfl, rfl⟩
theorem decode_transfer_and_ply :
    decodeWord 3 0x1070020003220080 = .ok (.pref always { d := 0, base := 2, data := 0, ty := 3, order := 0, scope := 2, hint := 2, offset := 128 }) ∧
    decodeWord 3 0x1170800000010000 = .ok (.prefList always { tx0 with shape := 2, mode := 1 }) ∧ decodeWord 3 0x0270005000000000 = .ok (.seal always { tx0 with tok := 20 }) ∧
    decodeWord 3 0x0370000000020000 = .ok (.waitb always { tx0 with mode := 2 }) ∧
    decodeWord 3 0x0170845106010000 = .ok (.comet always { shape := 2, hd := 4, tok := 20, arg := 16, kn := 24, mode := 1 }) ∧
    decodeWord 4 0x0372000000000000 = .ok (.plykeep always { pl0 with map := 1, ty := 0 }) ∧
    decodeWord 4 0x01724125160A0000 = .ok (.plymerge always { pl0 with map := 1, d := 8, a := 9, b := 10, c := 11 }) := by
  refine ⟨rfl, rfl, rfl, rfl, rfl, rfl, ?_⟩
  rfl
theorem decode_system :
    decodeWord 5 0x0071000000000000 = .ok (.mvs always { sy0 with d := 4 }) ∧ decodeWord 5 0x1170050000120001 = .ok (.knarr always { sy0 with a := 5, md := 0x12, imm := 1 }) ∧
    decodeWord 5 0x1070051800000000 = .ok (.kninit always { sy0 with a := 5, b := 6 }) := ⟨rfl, rfl, rfl⟩
/-- Reserved opcodes and types do not fall through to a neighbour. -/
theorem decode_reserved : (∀ c ∈ [0, 1, 2, 3, 4, 5], (match decodeWord c 0x7E70000000000000 with | .ok _ => true | .error _ => false) = false) ∧
    (match decodeWord 6 0x0070000000000000 with | .ok _ => true | .error _ => false) = false ∧
    (match decodeWord 0 0x0171461C0F010000 with | .ok _ => true | .error _ => false) = false := by decide +kernel

/-! ### One step each, from the spec's worked values -/

/-- A member with registers 6, 7 and 8, and 4 and 5. -/
def at678 (a b c : Word) : State := onBlock (blockOf (running [(4, 0x0804), (6, a), (7, b), (8, c)]))
/-- The operands g5, g6, g7, g8 of a word of a type. -/
def ops (ty : BitVec 4) (md : BitVec 8) : RRR := { d := 5, a := 6, b := 7, c := 8, ty := ty, md := md, imm := 0 }

/-- R343's example: 0x7FFFFFF0 + 32. -/
theorem test_add : regAfter (.add always (ops 6 1)) (at678 0x7FFFFFF0 0x20 0) 5 = some 0x7FFFFFFF ∧ regAfter (.add always (ops 6 0)) (at678 0x7FFFFFF0 0x20 0) 5 = some 0x80000010 := by
  decide +kernel
/-- R385's example. -/
theorem test_mad : regAfter (.mad always (ops 6 1)) (at678 0x10000 0x8000 0xFFFFFFFF) 5 = some 0x7FFFFFFF := by decide +kernel
/-- R386's examples. -/
theorem test_max : regAfter (.max always (ops 6 0)) (at678 0xFFFFFFFF 1 0) 5 = some 1 ∧ regAfter (.max always (ops 2 0)) (at678 0xFFFFFFFF 1 0) 5 = some 0xFFFFFFFF := by decide +kernel
/-- The examples at MUL and MULH: 0x80000000 by 2. -/
theorem test_mul : regAfter (.mul always (ops 2 0)) (at678 0x80000000 2 0) 5 = some 0 ∧ regAfter (.mul always (ops 6 1)) (at678 0x80000000 2 0) 5 = some 0x80000000 ∧
    regAfter (.mulh always (ops 6 0)) (at678 0x80000000 2 0) 5 = some 0xFFFFFFFF ∧ regAfter (.mulh always (ops 2 0)) (at678 0x80000000 2 0) 5 = some 1 := by decide +kernel
/-- R341: ABS of the most negative value. -/
theorem test_abs : regAfter (.abs always (ops 6 0)) (at678 0x80000000 0 0) 5 = some 0x80000000 ∧ regAfter (.abs always (ops 6 1)) (at678 0x80000000 0 0) 5 = some 0x7FFFFFFF := by decide +kernel
/-- The examples at BFX and BFI. -/
theorem test_bfx : regAfter (.bfx always (ops 2 0)) (at678 0xF0A0 0x0804 0) 5 = some 0xA ∧ regAfter (.bfx always (ops 2 0)) (at678 0xF0A0 0x040C 0) 5 = some 0xF ∧
    regAfter (.bfx always (ops 2 1)) (at678 0xF0A0 0x040C 0) 5 = some 0xFFFFFFFF := by decide +kernel
theorem test_bfi : regAfter (.bfi always (ops 2 0)) (at678 0xFFFFFFFF 5 0x0408) 5 = some 0xFFFFF5FF := by decide +kernel
/-- R402's example. -/
theorem test_popc : regAfter (.popc always (ops 2 0)) (at678 0xF0F00001 0 0) 5 = some 9 := by decide +kernel
/-- The example at SAR: 63 places of 2^63, and SHR with the same operands. -/
theorem test_shifts :
    let f : RRR := { d := 4, a := 6, b := 0, c := 0, ty := 7, md := 0x80, imm := 63 }
    let s := at678 0 0x80000000 0
    regAfter (.sar always f) s 4 = some 0xFFFFFFFF ∧ regAfter (.sar always f) s 5 = some 0xFFFFFFFF ∧ regAfter (.shr always f) s 4 = some 1 ∧ regAfter (.shr always f) s 5 = some 0 := by
  decide +kernel
/-- The table at CVT: -2.6875, 3e9 and a NaN to .i32 toward zero; 100,000 to .f16. -/
theorem test_cvt :
    let z : RRR := { d := 5, a := 6, b := 3, c := 0, ty := 6, md := 0x51, imm := 0 }
    let h : RRR := { d := 5, a := 6, b := 7, c := 0, ty := 8, md := 0x50, imm := 0 }
    regAfter (.cvt always z) (at678 0xC02C0000 0 0) 5 = some 0xFFFFFFFE ∧ regAfter (.cvt always z) (at678 0x4F32D05E 0 0) 5 = some 0x7FFFFFFF ∧
      regAfter (.cvt always z) (at678 0x7FC00000 0 0) 5 = some 0 ∧ regAfter (.cvt always h) (at678 0x47C35000 0 0) 5 = some 0x7C00 := by decide +kernel
theorem test_cvt_sat : regAfter (.cvt always { d := 5, a := 6, b := 7, c := 0, ty := 8, md := 0x54, imm := 0 }) (at678 0x47C35000 0 0) 5 = some 0x7BFF := by decide +kernel
/-- R12, R42: a core cycle adds 1 to sr.cyc and to no other core's. -/
theorem test_cycle :
    let s := (onBlock bareBlock).withDev { (onBlock bareBlock).m with moves := [.coreCycle 0] }
    ((nextDev (step s)).map fun m => ((m.core 0).cyc, (m.core 1).cyc)) = some (1, 0) := by decide +kernel
/-- The first word placed by withFetchWord runs in the first step: ADD g5, g6, g7 leaves for the next clause, at 16. -/
theorem test_first_step : ((nextDev (step addFirst)).bind fun m => (m.thread 0 0 0).map fun t => (t.pc, t.inCourse)) = some (16, false) := by decide +kernel
/-- The words of the table's rows are decoded from their bits: NOP. -/
theorem test_table_word : decodeTableWord 128 (0x0070000000000000 * 2 ^ 64 + 0x00FF000000000000) = some (.nop always { rrr with ty := 0 }) := by decide +kernel

end Sys2Proof.Tests
end

section
/-! PROOFS. Pairs and quads of registers, the common fields of a word and its guard, the predicate p7 (R9, R29, R69, R103). -/

namespace Sys2Proof.Machine

open Sys2Proof

/-! ### Pairs and quads (R9, R103) -/

/-- The low register of a pair holds bits [31:0]. -/
@[simp] theorem Thread.pair_low (t : Thread) (i : Nat) : (t.pair i).extractLsb' 0 32 = t.reg i := by
  rw [Thread.pair, bits_append_lo _ _ _ _ (by decide), bits_all]

/-- The register above it holds bits [63:32]. -/
@[simp] theorem Thread.pair_high (t : Thread) (i : Nat) : (t.pair i).extractLsb' 32 32 = t.reg (i + 1) := by
  rw [Thread.pair, bits_append_hi _ _ _ _ (by decide), bits_all]

/-- Each register of a quad holds the next 32 bits. -/
theorem Thread.quad_word (t : Thread) (i j : Nat) (h : j < 4) : (t.quad i).extractLsb' (32 * j) 32 = t.reg (i + j) := by
  rw [Thread.quad]
  match j, h with
  | 0, _ => rw [bits_append_lo _ _ _ _ (by decide)]; exact t.pair_low i
  | 1, _ => rw [bits_append_lo _ _ _ _ (by decide)]; exact t.pair_high i
  | 2, _ => rw [bits_append_hi _ _ _ _ (by decide)]; exact t.pair_low (i + 2)
  | 3, _ => rw [bits_append_hi _ _ _ _ (by decide)]; exact t.pair_high (i + 2)

/-- A write of a pair leaves every other register alone. -/
theorem Thread.reg_setPair_ne (t : Thread) (i j : Nat) (v : DWord) (hlow : j ≠ i) (hhigh : j ≠ i + 1) : (t.setPair i v).reg j = t.reg j := by
  rw [Thread.setPair, reg_setReg_ne _ _ _ _ hhigh, reg_setReg_ne _ _ _ _ hlow]

/-- A write of a quad leaves every other register alone. -/
theorem Thread.reg_setQuad_ne (t : Thread) (i j : Nat) (q : BitVec 128) (h : j < i ∨ i + 4 ≤ j) : (t.setQuad i q).reg j = t.reg j := by
  rw [Thread.setQuad, reg_setPair_ne _ _ _ _ (by omega) (by omega), reg_setPair_ne _ _ _ _ (by omega) (by omega)]

/-- A pair reads as what was written to it. -/
@[simp] theorem Thread.pair_setPair (t : Thread) (i : Nat) (v : DWord) : (t.setPair i v).pair i = v := by
  have hlow : (t.setPair i v).reg i = v.extractLsb' 0 32 := by
    rw [Thread.setPair, reg_setReg_ne _ _ _ _ (by omega), reg_setReg_same]
  have hhigh : (t.setPair i v).reg (i + 1) = v.extractLsb' 32 32 := by rw [Thread.setPair, reg_setReg_same]
  rw [Thread.pair, hlow, hhigh, bits_join v 0 32 32 32 rfl, bits_all]

/-- A pair beside it reads as before. -/
theorem Thread.pair_setPair_ne (t : Thread) (i j : Nat) (v : DWord) (h : j + 2 ≤ i ∨ i + 2 ≤ j) : (t.setPair i v).pair j = t.pair j := by
  have hlow : (t.setPair i v).reg j = t.reg j := reg_setPair_ne _ _ _ _ (by omega) (by omega)
  have hhigh : (t.setPair i v).reg (j + 1) = t.reg (j + 1) := reg_setPair_ne _ _ _ _ (by omega) (by omega)
  rw [Thread.pair, hlow, hhigh, ← Thread.pair]

/-- A quad reads as what was written to it. -/
@[simp] theorem Thread.quad_setQuad (t : Thread) (i : Nat) (q : BitVec 128) : (t.setQuad i q).quad i = q := by
  have hhigh : (t.setQuad i q).pair (i + 2) = q.extractLsb' 64 64 := pair_setPair _ _ _
  have hlow : (t.setQuad i q).pair i = q.extractLsb' 0 64 := by rw [Thread.setQuad, pair_setPair_ne _ _ _ _ (by omega), pair_setPair]
  rw [Thread.quad, hlow, hhigh, bits_join q 0 64 64 64 rfl, bits_all]

/-! ### The common fields and the guard (R69) -/

/-- K is bit 63. -/
theorem ctlOf_park (w : DWord) : (ctlOf w).park = w.getLsbD 63 := by
  have hbit : bits w 63 1 = BitVec.ofBool (w.getLsbD 63) := by
    apply BitVec.eq_of_getLsbD_eq
    intro i hi
    simp [bits, Nat.lt_one_iff.mp hi]
  simp only [ctlOf, hbit, park_ofBool]

/-- The low three bits of GUARD name the predicate. -/
theorem guard_field_predicate (w : DWord) : (w.extractLsb' 52 4).toNat % 8 = (w.extractLsb' 52 3).toNat := by
  simp only [BitVec.extractLsb'_toNat]
  exact Nat.mod_mod_of_dvd _ (by decide)

/-- A word executes where the predicate that its GUARD names, inverted by bit 55, is true. -/
theorem Thread.guard_ctlOf (t : Thread) (w : DWord) :
    t.guard (ctlOf w) = (t.getPred (w.extractLsb' 52 3).toNat != w.getLsbD 55) := by
  have hinv : (w.extractLsb' 52 4).getLsbD 3 = w.getLsbD 55 := by simp
  simp only [Thread.guard, ctlOf, bits, guard_field_predicate, hinv]

/-! ### p7 (R29) -/

@[simp] theorem Thread.getPred_seven (t : Thread) : t.getPred 7 = true := rfl
@[simp] theorem Thread.setPred_seven (t : Thread) (v : Bool) : t.setPred 7 v = t := rfl

/-- The guard 0b0111 always executes its word. -/
theorem Thread.guard_p7 (t : Thread) (c : Ctl) (h : c.guard = 0b0111) : t.guard c = true := by
  simp [Thread.guard, h]

/-- The guard (!p7) never does. -/
theorem Thread.guard_not_p7 (t : Thread) (c : Ctl) (h : c.guard = 0b1111) : t.guard c = false := by
  simp [Thread.guard, h]

/-- p7 stands as 1 among the predicates that a status record holds. -/
theorem pred_image_seven (p : BitVec 8) : (p ||| 0x80).toNat / 2 ^ 7 % 2 = 1 := by
  have h : (p ||| 0x80).toNat.testBit 7 = true := by
    rw [BitVec.testBit_toNat, BitVec.getLsbD_or]
    simp
  simpa [Nat.testBit_eq_decide_div_mod_eq] using h

/-- A thread status record holds p7 as 1 in bit 7 of its second doubleword (R38). -/
theorem statusFields_p7 (slot : Nat) (t : Thread) :
    ((statusFields slot t).any fun f => f.1 == 0x1000 + 32 * slot + 8 && f.2.2.testBit 7) = true := by
  have hp := pred_image_seven t.pred
  simp only [statusFields, List.any_append, List.any_cons, Nat.testBit_eq_decide_div_mod_eq, beq_self_eq_true, Bool.true_and, Bool.or_eq_true,
    decide_eq_true_eq]
  left; right; left
  omega

/-- A word that writes p7 changes no more than the marker of R78. -/
theorem regWord_setPred_seven {s : State} {c : Ctl} {e : Env} {t : Thread} (v : Env → Thread → Bool) (d : BitVec 6) (h : s.runs c e t) (hd : d = 7) :
    regWord c s (fun e t => t.setPred d.toNat (v e t)) = .next (s.ran e c fun x => x) := by
  subst hd
  exact regWord_run _ h

end Sys2Proof.Machine

namespace Sys2Proof

open Sys2Proof.Machine

/-- Settles O7, from the lemmas on pairs and quads, on the guard and on p7. -/
theorem registersAndGuards : Obligations.RegistersAndGuards := by
  refine ⟨fun t i => ⟨t.pair_low i, t.pair_high i, t.quad_word i⟩,
    fun t i v q => ⟨t.pair_setPair i v, t.quad_setQuad i q, fun j => t.reg_setPair_ne i j v, fun j => t.reg_setQuad_ne i j q⟩,
    fun t w => ⟨ctlOf_park w, rfl, t.guard_ctlOf w, t.guard_p7 (ctlOf w), t.guard_not_p7 (ctlOf w)⟩,
    fun t v slot => ⟨t.getPred_seven, t.setPred_seven v, statusFields_p7 slot t⟩, ?_⟩
  intro s c f e t h hd
  exact ⟨regWord_setPred_seven (fun e x => cmpCond (f.md.toNat % 8) (opA f x) (opB e f x)) f.d h hd,
    regWord_setPred_seven (fun _ x => fcmpCond (f.md.toNat % 8) (fval f.ty x f.a) (fval f.ty x f.b)) f.d h hd⟩

end Sys2Proof
end

section
/-! PROOFS. The accepted features: a write before the lock and after it, and a device reset (R2 to R5). -/

namespace Sys2Proof.Machine

open Sys2Proof

/-! ### A write of DEV_FEAT_ACC (R4) -/

/-- A locked register ignores writes. -/
theorem Features.write_locked (ft : Features) (v : DWord) (h : ft.lock = true) : ft.write v = ft := by
  simp [Features.write, h]

/-- Before the lock a write stores the supported ones of the written ACC bits, and LOCK. -/
theorem Features.write_unlocked (ft : Features) (v : DWord) (h : ft.lock = false) :
    ft.write v = { ft with acc := v.extractLsb' 0 6 &&& ft.sup, lock := v.getLsbD 63 } := by
  simp [Features.write, h]

/-- A write with LOCK 1 added stores the same ACC bits and locks. -/
theorem Features.write_lock (ft : Features) (v : DWord) (h : ft.lock = false) :
    ft.write (v ||| 0x8000000000000000) = { ft with acc := v.extractLsb' 0 6 &&& ft.sup, lock := true } := by
  have hacc : (v ||| 0x8000000000000000).extractLsb' 0 6 = v.extractLsb' 0 6 := by
    rw [BitVec.extractLsb'_or]
    simp
  have hlock : (v ||| 0x8000000000000000).getLsbD 63 = true := by
    rw [BitVec.getLsbD_or]
    simp
  rw [write_unlocked ft _ h, hacc, hlock]

/-- Before the lock no held write is serviced (R5). -/
theorem Dev.serviceHeld_unlocked (m : Dev) (ft : Features) (h : ft.lock = false) : m.serviceHeld ft = m := by
  simp [Dev.serviceHeld, h]

/-! ### The write as a step -/

/-- After the lock a write changes nothing. -/
theorem featWrite_locked (s : State) (v : DWord) (h : s.feat.lock = true) : featWrite s v = s := by
  unfold featWrite
  split
  · rfl
  · simp only [s.feat.write_locked v h]

/-- Before the lock a device that answers stores the write, and services the held writes where that locks. -/
theorem featWrite_unlocked (s : State) (v : DWord) (ha : s.answers) (h : s.feat.lock = false) :
    featWrite s v = { feat := s.feat.write v, m := s.m.serviceHeld (s.feat.write v) } := by
  unfold State.answers at ha
  simp [featWrite, ha, h]

end Sys2Proof.Machine

namespace Sys2Proof

open Sys2Proof.Machine

/-- Settles O10, by the two cases of DEV_FEAT_ACC's lock; the device reset clears the register by its definition. -/
theorem featureAcceptance : Obligations.FeatureAcceptance := by
  intro s v ha
  refine ⟨fun h => ?_, fun h => ?_, fun h => ?_, ?_⟩
  · refine ⟨featWrite s v, rfl, ?_⟩
    rw [featWrite_unlocked s v ha h, s.feat.write_unlocked v h]
    exact ⟨rfl, rfl, rfl, fun hv => s.m.serviceHeld_unlocked _ hv⟩
  · refine ⟨featWrite s (v ||| 0x8000000000000000), rfl, ?_⟩
    rw [featWrite_unlocked s _ ha h]
    exact s.feat.write_lock v h
  · exact ⟨congrArg Host.Outcome.next (featWrite_locked s v h), congrArg Host.Outcome.next (featWrite_locked s _ h)⟩
  · exact ⟨_, rfl, rfl⟩

end Sys2Proof
end

section
/-! PROOFS. Pending writes: what an arrival writes and leaves pending, and that the writes of a register keep their order (R74 to R77). -/

namespace Sys2Proof.Machine

open Sys2Proof

/-! ### Overtaken writes (R77) -/

/-- What the arrival of `p` makes of a pending write `q`: an earlier one is dead for the registers of both. -/
def Pending.overtake (p q : Pending) : Pending :=
  if q.id < p.id then { q with dead := p.dst.filter (fun i => q.dst.contains i) ++ q.dead } else q

@[simp] theorem Pending.overtake_id (p q : Pending) : (p.overtake q).id = q.id := by unfold Pending.overtake; split <;> rfl
@[simp] theorem Pending.overtake_val (p q : Pending) : (p.overtake q).val = q.val := by unfold Pending.overtake; split <;> rfl

/-- An arrival leaves later writes alone. -/
theorem Pending.overtake_later (p q : Pending) (h : p.id ≤ q.id) : p.overtake q = q := if_neg (Nat.not_lt.mpr h)

/-- An earlier write is dead for each register that it shares with the arrival. -/
theorem Pending.mem_dead_overtake (p q : Pending) (i : Nat) (h : q.id < p.id) (hp : i ∈ p.dst) (hq : i ∈ q.dst) : i ∈ (p.overtake q).dead := by
  rw [Pending.overtake, if_pos h]
  simp [hp, hq]

@[simp] theorem Pending.kill_id (p : Pending) (i : Nat) : (p.kill i).id = p.id := by unfold Pending.kill; split <;> rfl
@[simp] theorem Pending.kill_dst (p : Pending) (i : Nat) : (p.kill i).dst = p.dst := by unfold Pending.kill; split <;> rfl
@[simp] theorem Pending.kill_val (p : Pending) (i : Nat) : (p.kill i).val = p.val := by unfold Pending.kill; split <;> rfl

/-- A fixed-latency write makes the pending writes of its register dead for it. -/
theorem Pending.mem_dead_kill (p : Pending) (i : Nat) (h : i ∈ p.dst) : i ∈ (p.kill i).dead := by
  simp [Pending.kill, h]

/-! ### What an arrival writes (R76) -/

/-- Stores of registers leave the pending writes alone. -/
theorem Thread.pend_putRegs (l : List (Nat × Word)) (t : Thread) : (l.foldl (fun x e => x.putReg e.1 e.2) t).pend = t.pend := by
  induction l generalizing t with
  | nil => rfl
  | cons e l ih => exact ih (t.putReg e.1 e.2)

/-- Stores of other registers leave a register alone. -/
theorem Thread.reg_putRegs_ne (l : List (Nat × Word)) (t : Thread) (i : Nat) (h : ∀ e ∈ l, e.1 ≠ i) :
    (l.foldl (fun x e => x.putReg e.1 e.2) t).reg i = t.reg i := by
  induction l generalizing t with
  | nil => rfl
  | cons e l ih =>
    obtain ⟨he, hl⟩ := List.forall_mem_cons.mp h
    rw [List.foldl_cons, ih _ hl, Thread.reg_putReg_ne _ _ _ _ he.symm]

/-- After an arrival the other writes stay pending, the earlier ones overtaken. -/
theorem Thread.arrive_pend (t : Thread) (p : Pending) (v : List Word) :
    (t.arrive p v).pend = (t.pend.filter fun q => q.id != p.id).map p.overtake :=
  Thread.pend_putRegs (p.live v) _

/-- An arrival leaves a register alone for which it is dead. -/
theorem Thread.reg_arrive_dead (t : Thread) (p : Pending) (v : List Word) (i : Nat) (h : i ∈ p.dead) : (t.arrive p v).reg i = t.reg i := by
  refine Thread.reg_putRegs_ne (p.live v) _ i fun e he => ?_
  have hlive : e.1 ∉ p.dead := by simpa using (List.mem_filter.mp he).2
  exact fun hi => hlive (hi ▸ h)

/-- An arrival with one register, live for it, writes its value there. -/
theorem Thread.reg_arrive_single (t : Thread) (p : Pending) (v : Word) (i : Nat) (hd : p.dst = [i]) (h : i ∉ p.dead) : (t.arrive p [v]).reg i = v := by
  have hlive : p.live [v] = [(i, v)] := by simp [Pending.live, hd, h]
  simp [Thread.arrive, hlive]

/-! ### The arrival of a pending write that is found by its number -/

section
variable {t : Thread} {p : Pending} {v : List Word} {id : Nat} (hp : (t.pend.find? fun q => q.id == id) = some p) (hv : p.val = some v)
include hp hv

/-- A write that has its value arrives; the park that may end with it changes neither registers nor pending writes. -/
theorem Thread.arriveId_fields : (t.arriveId id).regs = (t.arrive p v).regs ∧ (t.arriveId id).pend = (t.arrive p v).pend := by
  obtain ⟨pid, dst, dead, val⟩ := p
  obtain rfl : val = some v := hv
  simp only [Thread.arriveId, hp]
  split <;> simp

theorem Thread.arriveId_pend : (t.arriveId id).pend = (t.pend.filter fun q => q.id != p.id).map p.overtake := by
  rw [(Thread.arriveId_fields hp hv).2, Thread.arrive_pend]

theorem Thread.reg_arriveId (i : Nat) : (t.arriveId id).reg i = (t.arrive p v).reg i :=
  congrArg (mget 0 · i) (Thread.arriveId_fields hp hv).1

end

/-! ### Threads with one pending write and with two -/

/-- With its only write arrived a thread has none pending. -/
theorem Thread.arriveId_only (t : Thread) (p : Pending) (v : List Word) (ht : t.pend = [p]) (hv : p.val = some v) :
    (t.arriveId p.id).pend = [] ∧ ∀ i, (t.arriveId p.id).reg i = (t.arrive p v).reg i := by
  have hfind : (t.pend.find? fun q => q.id == p.id) = some p := by simp [ht]
  exact ⟨by simp [Thread.arriveId_pend hfind hv, ht], Thread.reg_arriveId hfind hv⟩

/-- The earlier of two writes arrives first: the later one stays as it was. -/
theorem Thread.arriveId_earlier (t : Thread) (p q : Pending) (v : List Word) (ht : t.pend = [p, q]) (h : p.id < q.id) (hv : p.val = some v) :
    (t.arriveId p.id).pend = [q] := by
  have hfind : (t.pend.find? fun r => r.id == p.id) = some p := by simp [ht]
  simp [Thread.arriveId_pend hfind hv, ht, Nat.ne_of_gt h, p.overtake_later q (Nat.le_of_lt h)]

/-- The later of two writes arrives first: the earlier one stays, overtaken. -/
theorem Thread.arriveId_later (t : Thread) (p q : Pending) (w : List Word) (ht : t.pend = [p, q]) (h : p.id < q.id) (hw : q.val = some w) :
    (t.arriveId q.id).pend = [q.overtake p] ∧ ∀ i, (t.arriveId q.id).reg i = (t.arrive q w).reg i := by
  have hfind : (t.pend.find? fun r => r.id == q.id) = some q := by simp [ht, Nat.ne_of_lt h]
  exact ⟨by simp [Thread.arriveId_pend hfind hw, ht, Nat.ne_of_lt h], Thread.reg_arriveId hfind hw⟩

/-- No register of a thread without pending writes is pending. -/
theorem Thread.isPending_nil (t : Thread) (i : Nat) (h : t.pend = []) : t.isPending i = false := by simp [Thread.isPending, h]

/-- A write that is dead for a register arrives as the thread's last one: the register keeps its value and is pending no longer. -/
theorem Thread.arriveId_only_dead (t : Thread) (p : Pending) (v : List Word) (i : Nat) (ht : t.pend = [p]) (hv : p.val = some v) (hi : i ∈ p.dead) :
    (t.arriveId p.id).reg i = t.reg i ∧ (t.arriveId p.id).isPending i = false := by
  obtain ⟨hpend, hreg⟩ := t.arriveId_only p v ht hv
  exact ⟨(hreg i).trans (t.reg_arrive_dead p v i hi), Thread.isPending_nil _ i hpend⟩

/-- A write of one register, live for it, arrives as the thread's last one: the register takes its value and is pending no longer. -/
theorem Thread.arriveId_only_live (t : Thread) (p : Pending) (v : Word) (i : Nat) (ht : t.pend = [p]) (hv : p.val = some [v]) (hd : p.dst = [i]) (hi : i ∉ p.dead) :
    (t.arriveId p.id).reg i = v ∧ (t.arriveId p.id).isPending i = false := by
  obtain ⟨hpend, hreg⟩ := t.arriveId_only p [v] ht hv
  exact ⟨(hreg i).trans (t.reg_arrive_single p v i hd hi), Thread.isPending_nil _ i hpend⟩

/-- Of two writes to one register that arrive in program order the later one's value stays. -/
theorem Thread.arrive_in_order (t : Thread) (p q : Pending) (v : List Word) (w : Word) (i : Nat) (ht : t.pend = [p, q]) (h : p.id < q.id) (hv : p.val = some v)
    (hw : q.val = some [w]) (hd : q.dst = [i]) (hi : i ∉ q.dead) :
    ((t.arriveId p.id).arriveId q.id).reg i = w ∧ ((t.arriveId p.id).arriveId q.id).isPending i = false :=
  Thread.arriveId_only_live _ q w i (t.arriveId_earlier p q v ht h hv) hw hd hi

/-- Of two writes to one register the later one's value stays where it arrives first: the earlier one is dead by then. -/
theorem Thread.arrive_out_of_order (t : Thread) (p q : Pending) (v : List Word) (w : Word) (i : Nat) (ht : t.pend = [p, q]) (h : p.id < q.id) (hv : p.val = some v)
    (hw : q.val = some [w]) (hp : i ∈ p.dst) (hd : q.dst = [i]) (hi : i ∉ q.dead) :
    ((t.arriveId q.id).arriveId p.id).reg i = w ∧ ((t.arriveId q.id).arriveId p.id).isPending i = false := by
  obtain ⟨hpend, hreg⟩ := t.arriveId_later p q [w] ht h hw
  have hdead : i ∈ (q.overtake p).dead := q.mem_dead_overtake p i h (by simp [hd]) hp
  obtain ⟨hkeep, hdone⟩ := Thread.arriveId_only_dead _ (q.overtake p) v i hpend (by simp [hv]) hdead
  rw [Pending.overtake_id] at hkeep hdone
  exact ⟨by rw [hkeep, hreg, t.reg_arrive_single q w i hd hi], hdone⟩

/-- A pending write that arrives after a fixed-latency write of its register is discarded, and the register is pending until then. -/
theorem Thread.arrive_after_setReg (t : Thread) (p : Pending) (v : List Word) (x : Word) (i : Nat) (ht : t.pend = [p]) (hv : p.val = some v) (hp : i ∈ p.dst) :
    ((t.setReg i x).arriveId p.id).reg i = x ∧ ((t.setReg i x).arriveId p.id).isPending i = false ∧ (t.setReg i x).isPending i = true := by
  have hpend : (t.setReg i x).pend = [p.kill i] := by simp [Thread.setReg, ht]
  obtain ⟨hkeep, hdone⟩ := Thread.arriveId_only_dead _ (p.kill i) v i hpend (by simp [hv]) (p.mem_dead_kill i hp)
  rw [Pending.kill_id] at hkeep hdone
  exact ⟨by rw [hkeep, Thread.reg_setReg_same], hdone, by simp [Thread.isPending, hpend, hp]⟩

end Sys2Proof.Machine

namespace Sys2Proof

open Sys2Proof.Machine

/-- Settles O8, by the order in which the two writes arrive, and by the fixed-latency write that overtakes a pending one. -/
theorem registerWritesKeepTheirOrder : Obligations.RegisterWritesKeepTheirOrder := by
  intro t i p q v w x hlt hp hq _ hqd hv hw
  have hip : i ∈ p.dst := by simp [hp]
  have hiq : i ∉ q.dead := by simp [hqd]
  refine ⟨fun ht => ?_, fun ht => t.arrive_after_setReg p [v] x i ht hv hip⟩
  obtain ⟨hin, hinDone⟩ := t.arrive_in_order p q [v] w i ht hlt hv hw hq hiq
  obtain ⟨hout, houtDone⟩ := t.arrive_out_of_order p q [v] w i ht hlt hv hw hip hq hiq
  exact ⟨hin, hout, hinDone, houtDone⟩

end Sys2Proof
end

section
/-! PROOFS. Homes of local offsets: the home die, the stack and the home slice, and the granules that share them (R21, R165, R166). -/

namespace Sys2Proof.Machine

open Sys2Proof

/-! ### The span of a die (R21) -/

/-- The bytes homed on one die, by the part. -/
theorem Features.dieSpan_eq (ft : Features) : ft.dieSpan = if ft.part = .g4x then 192 * 2 ^ 30 else 128 * 2 ^ 30 := by
  cases h : ft.part <;> simp [Features.dieSpan, h]

/-- The four dies lie within the offsets of one pod device. -/
theorem Features.dieSpan_fits (ft : Features) : 4 * ft.dieSpan ≤ 2 ^ 40 := by
  rw [ft.dieSpan_eq]
  split <;> decide

/-- A die's range is made of whole 4 KiB pages. -/
theorem Features.page_dvd_dieSpan (ft : Features) : 4096 ∣ ft.dieSpan := by
  rw [ft.dieSpan_eq]
  split <;> decide

/-- A die's range is made of whole 512-byte blocks. -/
theorem Features.block_dvd_dieSpan (ft : Features) : 512 ∣ ft.dieSpan := Nat.dvd_trans (by decide) ft.page_dvd_dieSpan

/-- Offsets in one granule of a size that divides the die's range lie on one die, in one granule of that die. -/
theorem Features.granule_on_die (ft : Features) {g o o' : Nat} (hg : g ∣ ft.dieSpan) (h : o' / g = o / g) :
    o' / ft.dieSpan = o / ft.dieSpan ∧ o' % ft.dieSpan / g = o % ft.dieSpan / g := by
  obtain ⟨k, hk⟩ := hg
  rw [hk]
  exact ⟨by rw [← Nat.div_div_eq_div_mul, h, Nat.div_div_eq_div_mul], by rw [Nat.mod_mul_right_div_self, h, Nat.mod_mul_right_div_self]⟩

/-- The offsets of one 512-byte block are homed together. -/
theorem Features.homed_of_block (ft : Features) {o o' : Nat} (ho : o < 4 * ft.dieSpan) (h : o' / 512 = o / 512) : o' < 4 * ft.dieSpan := by
  obtain ⟨k, hk⟩ := ft.block_dvd_dieSpan
  omega

/-! ### The stack (R166) -/

/-- The stack of an offset, by the part. -/
theorem stackOf_eq (ft : Features) (o : Nat) : stackOf ft o =
    if ft.part = .g4x then 3 * (o / ft.dieSpan) + o % ft.dieSpan / 4096 % 3 else 2 * (o / ft.dieSpan) + o % ft.dieSpan / 4096 % 2 := by
  cases h : ft.part <;> simp [stackOf, h]

/-- Each aligned 4 KiB lies in one stack. -/
theorem stackOf_page (ft : Features) {o o' : Nat} (h : o' / 4096 = o / 4096) : stackOf ft o' = stackOf ft o := by
  obtain ⟨hdie, hpage⟩ := ft.granule_on_die ft.page_dvd_dieSpan h
  rw [stackOf_eq, stackOf_eq, hdie, hpage]

/-! ### The hash of R166 -/

/-- The hash takes an offset by its 512-byte block. -/
theorem sliceHash_eq_of_block {d d' : Nat} (h : d' / 512 = d / 512) : sliceHash d' = sliceHash d := by
  have hfield (n : Nat) : d' / (512 * n) = d / (512 * n) := by rw [← Nat.div_div_eq_div_mul, h, Nat.div_div_eq_div_mul]
  unfold sliceHash bitsOf
  rw [show 2 ^ 9 = 512 * 1 from rfl, show 2 ^ 14 = 512 * 32 from rfl, show 2 ^ 19 = 512 * 1024 from rfl, hfield, hfield, hfield]

/-! ### Local offsets as locations (R165, R166) -/

section
variable {m : Dev} {ft : Features} {o : Nat} (hp : m.mgmt.podDev < 4096) (ho : o < 4 * ft.dieSpan)
include hp ho

/-- An offset that the part homes is local under the device's own pod number, and is the location's low 40 bits. -/
theorem Dev.isLocal_ownOffset : m.isLocal (m.mgmt.podDev * 2 ^ 40 + o) = true ∧ (m.mgmt.podDev * 2 ^ 40 + o) % 2 ^ 40 = o := by
  have hspan := ft.dieSpan_fits
  simp only [Dev.isLocal, isDevLoc, podOf, Bool.and_eq_true, decide_eq_true_eq, beq_iff_eq]
  omega

/-- The home die of a local offset. -/
theorem Dev.dieOfLoc_ownOffset : m.dieOfLoc ft (m.mgmt.podDev * 2 ^ 40 + o) = o / ft.dieSpan := by
  obtain ⟨hlocal, hoff⟩ := Dev.isLocal_ownOffset hp ho
  have hdie : o / ft.dieSpan < 4 := Nat.div_lt_of_lt_mul (Nat.mul_comm 4 _ ▸ ho)
  rw [Dev.dieOfLoc, if_pos hlocal, hoff]
  exact Nat.min_eq_right (Nat.le_of_lt_succ hdie)

/-- The home slice of a local offset is the hash of the offset within its die. -/
theorem Dev.sliceOfLoc_ownOffset : m.sliceOfLoc ft (m.mgmt.podDev * 2 ^ 40 + o) = sliceHash (o % ft.dieSpan) := by
  obtain ⟨hlocal, hoff⟩ := Dev.isLocal_ownOffset hp ho
  rw [Dev.sliceOfLoc, if_pos hlocal, hoff, Dev.dieOfLoc_ownOffset hp ho, Nat.mul_comm, ← Nat.mod_eq_sub_mul_div]

end

end Sys2Proof.Machine

namespace Sys2Proof

open Sys2Proof.Machine

/-- Settles O9: the formulas of R21 and R166 hold of an offset under the device's own pod number, and each takes the offset by its granule. -/
theorem homesOfAddresses : Obligations.HomesOfAddresses := by
  intro m ft o hp ho loc die d slice
  have hslice {o : Nat} (ho : o < 4 * ft.dieSpan) : slice o = 32 * (o / ft.dieSpan) + sliceHash (o % ft.dieSpan) := by
    simp only [slice, Dev.dieOfLoc_ownOffset hp ho, Dev.sliceOfLoc_ownOffset hp ho]
  refine ⟨ft.dieSpan_eq, Dev.dieOfLoc_ownOffset hp ho, stackOf_eq ft o, hslice ho, fun _ h => stackOf_page ft h, fun o' h => ?_⟩
  obtain ⟨hdie, hblock⟩ := ft.granule_on_die ft.block_dvd_dieSpan h
  rw [hslice ho, hslice (ft.homed_of_block ho h), hdie, sliceHash_eq_of_block hblock]

end Sys2Proof
end
